-- ==== Sys2Proof/Word.lean ====
section
/-! DEFINITION. The bit-vector types of the machine (`00_scope.md` R8, R9): every quantity is unsigned, bit 0 is the
least significant. Field extraction stands in `Decode.lean`, arithmetic in `Machine/Operands.lean`. -/

namespace Sys2Proof

/-- A 4-bit field: a packet-type code, a flag nibble (R45). -/
abbrev Nibble := BitVec 4

/-- A 7-bit remaining-length digit (R47). -/
abbrev Digit := BitVec 7

/-- One byte of the input buffer (R30); `u8` of the spec (R9). -/
abbrev Byte := BitVec 8

/-- The 11-bit command word of one clock cycle (R50). -/
abbrev CommandWord := BitVec 11

/-- `u32` of the spec (R9). -/
abbrev Word := BitVec 32

/-- The input buffer of a Level F call: a finite sequence of bytes, offset 0 first, of any length (R30). -/
abbrev Buffer := List Byte

end Sys2Proof
end

