-- ==== Sys2Proof/Config.lean ====
section
/-! DEFINITION. The parameters the source fixes (`00_scope.md` R6). R6: "none is left to an implementation, and a model
takes them as constants". No value of this hardware is left to an implementation and no value is free, so there is no
opaque constant here (`92_eei_decisions.md`: "None is `OPEN`"). -/

namespace Sys2Proof.Config

/-- `RL_MAX_BYTES`: most bytes a remaining-length field may take (R6). -/
abbrev rlMaxBytes : Nat := 4

/-- `RL_BASE`: weight ratio between successive length bytes (R6). -/
abbrev rlBase : Nat := 128

/-- `RL_VALUE_MAX`: the largest remaining length, 128^4 - 1 (R6). -/
abbrev rlValueMax : Nat := 268435455

/-- `HDR_MAX_BYTES`: longest fixed header, the most bytes the block inspects (R6). -/
abbrev hdrMaxBytes : Nat := 5

end Sys2Proof.Config
end

