-- ==== Sys2Proof/Syntax.lean ====
section
/-! DEFINITION. The value types of Level F (`00_scope.md` R11), the instruction formats and the instructions: one
constructor of `Instr` for each of the 22 rows of `opcode_table.json`; and the input pins of one clock cycle (R26). -/

namespace Sys2Proof

/-- The sixteen packet types (R11), in code order (R53). -/
inductive PacketType where
  | reserved | connect | connAck | publish | pubAck | pubRec | pubRel | pubComp
  | subscribe | subAck | unsubscribe | unsubAck | pingReq | pingResp | disconnect | auth
  deriving DecidableEq, Repr

/-- The four QoS values (R11, R85). `invalid` is a value of its own, never folded into another. -/
inductive QosLevel where
  | zero | one | two | invalid
  deriving DecidableEq, Repr

/-- The decoded view of a PUBLISH flag nibble (R11, R86). -/
structure PublishFlags where
  dup : Bool
  qos : QosLevel
  retain : Bool
  deriving DecidableEq, Repr

/-- A remaining length with its encoding (R11): `value` is a `u32`, `raw_bytes` stand in wire order. -/
structure RemainingLength where
  value : Word
  encoded_byte_count : Nat
  raw_bytes : List Byte
  deriving DecidableEq, Repr

/-- A parsed fixed header (R11); `flags` is the raw low nibble held in a `u8`. -/
structure FixedHeader where
  packet_type : PacketType
  flags : Byte
  publish_flags : Option PublishFlags
  remaining_length : RemainingLength
  deriving DecidableEq, Repr

/-- The seven typed errors (R11, R131); R140: "There is no other error, fault or trap". The payload of `invalidQos` is
the two QoS bits (R136). -/
inductive ParseError where
  | truncatedInput
  | reservedTypeUsed
  | invalidFlags (expected found : Byte)
  | invalidQos (found : BitVec 2)
  | malformedRemainingLength
  | nonMinimalEncoding
  | valueTooLarge
  deriving DecidableEq, Repr

/-- `Result T` of R11. -/
abbrev Result (α : Type) := Except ParseError α

/-- The two operations of `FHP`, selected by the `mode` pin (R19, R26). -/
inductive Mode where
  | parse | rldec
  deriving DecidableEq, Repr

/-- The three formats of the opcode table: byte 0 of a header (R45), a remaining-length byte (R47), the host command
word (R50). -/
inductive Format where
  | fh0 | rlb | cmd
  deriving DecidableEq, Repr

/-- The instructions: one constructor for each row of `opcode_table.json`. Every operand has exactly the width of its
field (R45, R47, R50; R83 and U8 ask for this typing), so no operand is out of range. -/
inductive Instr where
  /-- RESERVED, code 0 (R63) -/
  | reserved (f : Nibble)
  /-- CONNECT, code 1 (R64) -/
  | connect (f : Nibble)
  /-- CONNACK, code 2 (R65) -/
  | connack (f : Nibble)
  /-- PUBLISH, code 3 (R66): bit 3 of `f` is DUP, bits 2 to 1 QoS, bit 0 RETAIN (R46) -/
  | publish (f : Nibble)
  /-- PUBACK, code 4 (R67) -/
  | puback (f : Nibble)
  /-- PUBREC, code 5 (R68) -/
  | pubrec (f : Nibble)
  /-- PUBREL, code 6 (R69) -/
  | pubrel (f : Nibble)
  /-- PUBCOMP, code 7 (R70) -/
  | pubcomp (f : Nibble)
  /-- SUBSCRIBE, code 8 (R71) -/
  | subscribe (f : Nibble)
  /-- SUBACK, code 9 (R72) -/
  | suback (f : Nibble)
  /-- UNSUBSCRIBE, code 10 (R73) -/
  | unsubscribe (f : Nibble)
  /-- UNSUBACK, code 11 (R74) -/
  | unsuback (f : Nibble)
  /-- PINGREQ, code 12 (R75) -/
  | pingreq (f : Nibble)
  /-- PINGRESP, code 13 (R76) -/
  | pingresp (f : Nibble)
  /-- DISCONNECT, code 14 (R77) -/
  | disconnect (f : Nibble)
  /-- AUTH, code 15 (R78) -/
  | auth (f : Nibble)
  /-- RLC, a length byte with its continuation bit set (R47, R92) -/
  | rlc (d : Digit)
  /-- RLT, a length byte with its continuation bit clear (R47, R90) -/
  | rlt (d : Digit)
  /-- NOP, `cmd` = 0 (R122) -/
  | nop
  /-- BYTE, `cmd` = 1: deliver `in_byte` (R124) -/
  | byte (b : Byte)
  /-- END, `cmd` = 2: the buffer has no more bytes (R127) -/
  | endOfBuffer
  /-- START, `cmd` = 3: open a call in the mode of the `mode` pin (R123) -/
  | start (m : Mode)
  deriving DecidableEq, Repr

/-- The input pins of one clock cycle: the four pins of `FHP` that R26 lists beside the clock, and the one input of
`RLENC` (R107). Raw bits, as the wires carry them; `Decode.lean` reads them. -/
structure Cycle where
  rst : Bool
  cmd : BitVec 2
  mode : BitVec 1
  in_byte : Byte
  enc_value : Word
  deriving DecidableEq, Repr

/-- The pins of a cycle that nobody drives: all low. D4: "NOP is 0 so that an undriven, pulled-low port does nothing".
DEDUCED, unsafe (log entry 2). -/
def Cycle.idle : Cycle := { rst := false, cmd := 0, mode := 0, in_byte := 0, enc_value := 0 }

end Sys2Proof
end

