-- ==== Sys2Proof/WellFormed.lean ====
section
/-! DEFINITION. Which terms are well-formed. An instruction's operands are typed at the width of their fields (R83, U8:
"Treatment: `refuse`, by typing"), so `Instr.wellFormed` states the ranges and no term fails it. The records of Level F
(R11) can be written down wrongly; their checks are the invariants the spec states of them (R11, R100, R115). -/

namespace Sys2Proof

/-- The operand ranges of R45, R47, R50: a nibble is below 16, a digit below 128, a byte below 256. -/
def Instr.wellFormed : Instr → Bool
  | .reserved f | .connect f | .connack f | .publish f | .puback f | .pubrec f | .pubrel f | .pubcomp f
  | .subscribe f | .suback f | .unsubscribe f | .unsuback f | .pingreq f | .pingresp f | .disconnect f
  | .auth f => f.toNat < 16
  | .rlc d | .rlt d => d.toNat < 128
  | .byte b => b.toNat < 256
  | .nop | .endOfBuffer | .start _ => true

/-- The value of a field of length bytes, low digit first, without bit 7 of any byte (R35, R52). -/
def spelledValue : List Byte → Nat
  | [] => 0
  | b :: rest => b.toNat % 128 + 128 * spelledValue rest

/-- Every byte of the field but the last has bit 7 set, and the last has it clear (R48). -/
def properlyEnded : List Byte → Bool
  | [] => false
  | [b] => b.toNat < 128
  | b :: rest => 128 ≤ b.toNat && properlyEnded rest

namespace RemainingLength

/-- `value` is 0 to 268,435,455 (R11, R100). -/
def valueInRange (r : RemainingLength) : Bool := r.value.toNat ≤ Config.rlValueMax

/-- `raw_bytes` has `encoded_byte_count` bytes, 1 to 4 (R11, R100). -/
def countInRange (r : RemainingLength) : Bool :=
  r.raw_bytes.length == r.encoded_byte_count && 1 ≤ r.encoded_byte_count &&
    r.encoded_byte_count ≤ Config.rlMaxBytes

/-- `raw_bytes` is a properly ended field that spells `value` (R100, R105). -/
def rawSpellsValue (r : RemainingLength) : Bool :=
  properlyEnded r.raw_bytes && spelledValue r.raw_bytes == r.value.toNat

/-- No padding: a field of more than one byte has a value that does not fit in one byte fewer (R96, R100). -/
def minimal (r : RemainingLength) : Bool :=
  r.encoded_byte_count ≤ 1 || Config.rlBase ^ (r.encoded_byte_count - 1) ≤ r.value.toNat

/-- All four checks. -/
def wellFormed (r : RemainingLength) : Bool :=
  r.valueInRange && r.countInRange && r.rawSpellsValue && r.minimal

end RemainingLength

namespace FixedHeader

/-- A returned header is never of type `Reserved` (R110). -/
def typeAllowed (h : FixedHeader) : Bool := h.packet_type ≠ .reserved

/-- `flags` is a nibble in a `u8`: the upper four bits are 0 (R114). -/
def flagsInNibble (h : FixedHeader) : Bool := h.flags.toNat < 16

/-- "`publish_flags` is present iff `packet_type == Publish`" (R115). -/
def publishFlagsIffPublish (h : FixedHeader) : Bool :=
  h.publish_flags.isSome == (h.packet_type == .publish)

/-- A returned header never holds `qos = Invalid` (R88). -/
def qosNotInvalid (h : FixedHeader) : Bool :=
  match h.publish_flags with
  | none => true
  | some pf => pf.qos ≠ .invalid

/-- All checks, the remaining length's among them. -/
def wellFormed (h : FixedHeader) : Bool :=
  h.typeAllowed && h.flagsInNibble && h.publishFlagsIffPublish && h.qosNotInvalid && h.remaining_length.wellFormed

end FixedHeader

end Sys2Proof
end

