-- ==== Sys2Proof/Decode.lean ====
section
/-! DEFINITION. Field extraction (`30_encoding.md` R51), the packet-type map (R53, R59), the decoder of the three formats,
total on any bytes, and after it the encoder, written from the same tables. -/

namespace Sys2Proof

/-! ### Fields -/

/-- `b[7:4]`, the packet-type code of byte 0 (R45, R51). -/
def typeField (b : Byte) : Nibble := b.extractLsb' 4 4

/-- `b[3:0]`, the flag nibble of byte 0 (R45, R51). -/
def flagsField (b : Byte) : Nibble := b.extractLsb' 0 4

/-- `b[7]`, the continuation flag of a length byte (R47). -/
def contField (b : Byte) : Bool := b.getLsbD 7

/-- `b[6:0]`, the digit of a length byte (R47, R91). -/
def digitField (b : Byte) : Digit := b.extractLsb' 0 7

/-- `f[3]`, the DUP bit of a PUBLISH nibble (R46). -/
def dupField (f : Nibble) : Bool := f.getLsbD 3

/-- `f[2:1]`, the QoS bits of a PUBLISH nibble (R46). -/
def qosField (f : Nibble) : BitVec 2 := f.extractLsb' 1 2

/-- `f[0]`, the RETAIN bit of a PUBLISH nibble (R46). -/
def retainField (f : Nibble) : Bool := f.getLsbD 0

/-- `cw[10:9]`, the `cmd` field of a command word (R50). -/
def cmdField (w : CommandWord) : BitVec 2 := w.extractLsb' 9 2

/-- `cw[8]`, the `mode` field of a command word (R50). -/
def modeField (w : CommandWord) : BitVec 1 := w.extractLsb' 8 1

/-- `cw[7:0]`, the `in_byte` field of a command word (R50). -/
def inByteField (w : CommandWord) : Byte := w.extractLsb' 0 8

/-! ### The packet-type map -/

/-- The variant of a 4-bit code: position in the list of R53 (D17). The last arm is code 15: a nibble is below 16. -/
def PacketType.ofCode (c : Nibble) : PacketType :=
  match c.toNat with
  | 0 => .reserved
  | 1 => .connect
  | 2 => .connAck
  | 3 => .publish
  | 4 => .pubAck
  | 5 => .pubRec
  | 6 => .pubRel
  | 7 => .pubComp
  | 8 => .subscribe
  | 9 => .subAck
  | 10 => .unsubscribe
  | 11 => .unsubAck
  | 12 => .pingReq
  | 13 => .pingResp
  | 14 => .disconnect
  | _ => .auth

/-- The 4-bit code of a variant (R53, R60: "the code can be recovered from the variant"). -/
def PacketType.code : PacketType → Nibble
  | .reserved => 0
  | .connect => 1
  | .connAck => 2
  | .publish => 3
  | .pubAck => 4
  | .pubRec => 5
  | .pubRel => 6
  | .pubComp => 7
  | .subscribe => 8
  | .subAck => 9
  | .unsubscribe => 10
  | .unsubAck => 11
  | .pingReq => 12
  | .pingResp => 13
  | .disconnect => 14
  | .auth => 15

/-- `decode_type` on the whole first byte (R59); total, the low nibble does not matter. -/
def decodeType (firstByte : Byte) : PacketType := PacketType.ofCode (typeField firstByte)

/-! ### Decoding one word of each format -/

/-- Byte 0 of a header: the row is selected by the high nibble alone (R54). -/
def decodeFh0 (b : Byte) : Instr :=
  let f := flagsField b
  match decodeType b with
  | .reserved => .reserved f
  | .connect => .connect f
  | .connAck => .connack f
  | .publish => .publish f
  | .pubAck => .puback f
  | .pubRec => .pubrec f
  | .pubRel => .pubrel f
  | .pubComp => .pubcomp f
  | .subscribe => .subscribe f
  | .subAck => .suback f
  | .unsubscribe => .unsubscribe f
  | .unsubAck => .unsuback f
  | .pingReq => .pingreq f
  | .pingResp => .pingresp f
  | .disconnect => .disconnect f
  | .auth => .auth f

/-- A length byte: RLC if bit 7 is set, else RLT (R47). -/
def decodeRlb (b : Byte) : Instr :=
  if contField b then .rlc (digitField b) else .rlt (digitField b)

/-- The `mode` pin: PARSE = 0, RLDEC = 1 (R26). -/
def Mode.ofPin (m : BitVec 1) : Mode := if m = 0 then .parse else .rldec

/-- The command word of a cycle (R50). All four `cmd` values are commands (R26); the fields a command does not read are
ignored (D7). The last arm is `cmd` = 3. -/
def decodeCommand (w : CommandWord) : Instr :=
  match (cmdField w).toNat with
  | 0 => .nop
  | 1 => .byte (inByteField w)
  | 2 => .endOfBuffer
  | _ => .start (Mode.ofPin (modeField w))

/-- `cw = {cmd[1:0], mode, in_byte[7:0]}` of the pins of a cycle (R50). -/
def Cycle.word (c : Cycle) : CommandWord := c.cmd ++ c.mode ++ c.in_byte

/-- The command a cycle carries: none in a reset cycle, whose `cmd` is ignored (R153). -/
def Cycle.command (c : Cycle) : Option Instr := if c.rst then none else some (decodeCommand c.word)

/-! ### Decoding bytes -/

/-- Why bytes are no instruction of a format. -/
inductive DecodeError where
  /-- no byte is left for a word of the format -/
  | noBytes (fmt : Format)
  /-- a command word needs two bytes and one is left -/
  | commandWordCut
  /-- a bit above bit 10 of a command word is set: no row of the table is that wide (R50) -/
  | commandWordTooWide
  deriving DecidableEq, Repr

/-- The first instruction of a list of bytes in a format, and the bytes after it; total on any bytes. FH0 and RLB words
are one byte, and every byte is a row of them (R55, R47). A command word stands in two bytes, low byte first, its upper
five bits 0: the spec gives it no byte layout ("The word is a notation only", R50): DESIGN CHOICE, safe (log entry 9). -/
def decode (fmt : Format) (bytes : List Byte) : Except DecodeError (Instr × List Byte) :=
  match fmt, bytes with
  | .fh0, b :: rest => .ok (decodeFh0 b, rest)
  | .rlb, b :: rest => .ok (decodeRlb b, rest)
  | .cmd, lo :: hi :: rest =>
    if hi.toNat < 8 then .ok (decodeCommand ((hi.setWidth 3 ++ lo : BitVec (3 + 8)).cast rfl), rest)
    else .error .commandWordTooWide
  | .cmd, [_] => .error .commandWordCut
  | .fh0, [] => .error (.noBytes .fh0)
  | .rlb, [] => .error (.noBytes .rlb)
  | .cmd, [] => .error (.noBytes .cmd)

/-- The instruction the decoder reads from a table word: `nbits` 1 to 8 is a byte on the wire, read as the machine reads
the first byte after reset, an FH0 word (R17, R29); 9 to 16 is a command word in its two bytes. Bits above `nbits` must be
0. An 8-bit word fits an RLB row too; which it is depends on the phase: DESIGN CHOICE, safe (log entry 8). -/
def decodeTableWord (nbits w : Nat) : Option Instr :=
  if nbits = 0 ∨ 16 < nbits ∨ 2 ^ nbits ≤ w then none
  else
    let bytes : List Byte :=
      if nbits ≤ 8 then [BitVec.ofNat 8 w] else [BitVec.ofNat 8 w, BitVec.ofNat 8 (w / 256)]
    match decode (if nbits ≤ 8 then .fh0 else .cmd) bytes with
    | .ok (i, []) => some i
    | .ok (_, _ :: _) => none
    | .error _ => none

/-- The pins that present a table word to the machine: a byte as a BYTE command, a command word field by field; the
`enc_value` pin is left as it is. -/
def cycleOfTableWord (nbits w : Nat) (encValue : Word) : Cycle :=
  if nbits ≤ 8 then { rst := false, cmd := 1, mode := 0, in_byte := BitVec.ofNat 8 w, enc_value := encValue }
  else
    let cw : CommandWord := BitVec.ofNat 11 w
    { rst := false, cmd := cmdField cw, mode := modeField cw, in_byte := inByteField cw, enc_value := encValue }

/-! ### The encoder -/

/-- The format of an instruction. -/
def Instr.format : Instr → Format
  | .reserved _ | .connect _ | .connack _ | .publish _ | .puback _ | .pubrec _ | .pubrel _ | .pubcomp _
  | .subscribe _ | .suback _ | .unsubscribe _ | .unsuback _ | .pingreq _ | .pingresp _ | .disconnect _
  | .auth _ => .fh0
  | .rlc _ | .rlt _ => .rlb
  | .nop | .byte _ | .endOfBuffer | .start _ => .cmd

/-- The pin value of a mode (R26). -/
def Mode.pin : Mode → BitVec 1
  | .parse => 0
  | .rldec => 1

/-- Byte 0 with a packet-type code and a flag nibble (R45). -/
def fh0Byte (code f : Nibble) : Byte := code ++ f

/-- A length byte with a continuation flag and a digit (R47). -/
def rlbByte (cont : BitVec 1) (d : Digit) : Byte := cont ++ d

/-- A command word from its three fields (R50). -/
def commandWord (cmd : BitVec 2) (mode : BitVec 1) (inByte : Byte) : CommandWord := cmd ++ mode ++ inByte

/-- The word of an instruction, zero-extended to the 11 bits of the widest format; ignored bits are written 0
(`95_test_vectors.md`, Notation). -/
def Instr.word : Instr → CommandWord
  | .reserved f => (fh0Byte 0x0 f).setWidth 11
  | .connect f => (fh0Byte 0x1 f).setWidth 11
  | .connack f => (fh0Byte 0x2 f).setWidth 11
  | .publish f => (fh0Byte 0x3 f).setWidth 11
  | .puback f => (fh0Byte 0x4 f).setWidth 11
  | .pubrec f => (fh0Byte 0x5 f).setWidth 11
  | .pubrel f => (fh0Byte 0x6 f).setWidth 11
  | .pubcomp f => (fh0Byte 0x7 f).setWidth 11
  | .subscribe f => (fh0Byte 0x8 f).setWidth 11
  | .suback f => (fh0Byte 0x9 f).setWidth 11
  | .unsubscribe f => (fh0Byte 0xA f).setWidth 11
  | .unsuback f => (fh0Byte 0xB f).setWidth 11
  | .pingreq f => (fh0Byte 0xC f).setWidth 11
  | .pingresp f => (fh0Byte 0xD f).setWidth 11
  | .disconnect f => (fh0Byte 0xE f).setWidth 11
  | .auth f => (fh0Byte 0xF f).setWidth 11
  | .rlc d => (rlbByte 1 d).setWidth 11
  | .rlt d => (rlbByte 0 d).setWidth 11
  | .nop => commandWord 0 0 0
  | .byte b => commandWord 1 0 b
  | .endOfBuffer => commandWord 2 0 0
  | .start m => commandWord 3 m.pin 0

/-- The bytes of an instruction, lowest address first: one byte for FH0 and RLB, two for a command word. -/
def encode (i : Instr) : List Byte :=
  match i.format with
  | .fh0 | .rlb => [i.word.setWidth 8]
  | .cmd => [i.word.setWidth 8, (i.word.extractLsb' 8 3).setWidth 8]

/-! ### The opcode table -/

/-- One row of `opcode_table.json`: its format, its mask and its match. -/
structure OpcodeRow where
  format : Format
  pattern : CommandWord
  mask : CommandWord
  deriving DecidableEq, Repr

/-- A word belongs to a row when `word & mask = match` (R54). -/
def OpcodeRow.accepts (r : OpcodeRow) (w : CommandWord) : Bool := w &&& r.mask == r.pattern

/-- The 22 rows in the order of `opcode_table.json`: its `match` and `mask` columns, copied (R47, R50, R54). -/
def opcodeTable : List OpcodeRow :=
  [⟨.fh0, 0x00, 0xF0⟩, ⟨.fh0, 0x10, 0xF0⟩, ⟨.fh0, 0x20, 0xF0⟩, ⟨.fh0, 0x30, 0xF0⟩,
   ⟨.fh0, 0x40, 0xF0⟩, ⟨.fh0, 0x50, 0xF0⟩, ⟨.fh0, 0x60, 0xF0⟩, ⟨.fh0, 0x70, 0xF0⟩,
   ⟨.fh0, 0x80, 0xF0⟩, ⟨.fh0, 0x90, 0xF0⟩, ⟨.fh0, 0xA0, 0xF0⟩, ⟨.fh0, 0xB0, 0xF0⟩,
   ⟨.fh0, 0xC0, 0xF0⟩, ⟨.fh0, 0xD0, 0xF0⟩, ⟨.fh0, 0xE0, 0xF0⟩, ⟨.fh0, 0xF0, 0xF0⟩] ++
  [⟨.rlb, 0x80, 0x80⟩, ⟨.rlb, 0x00, 0x80⟩] ++
  [⟨.cmd, 0x000, 0x600⟩, ⟨.cmd, 0x200, 0x600⟩, ⟨.cmd, 0x400, 0x600⟩, ⟨.cmd, 0x600, 0x600⟩]

/-- The position of an instruction's row in `opcodeTable`. -/
def Instr.rowIndex : Instr → Nat
  | .reserved _ => 0
  | .connect _ => 1
  | .connack _ => 2
  | .publish _ => 3
  | .puback _ => 4
  | .pubrec _ => 5
  | .pubrel _ => 6
  | .pubcomp _ => 7
  | .subscribe _ => 8
  | .suback _ => 9
  | .unsubscribe _ => 10
  | .unsuback _ => 11
  | .pingreq _ => 12
  | .pingresp _ => 13
  | .disconnect _ => 14
  | .auth _ => 15
  | .rlc _ => 16
  | .rlt _ => 17
  | .nop => 18
  | .byte _ => 19
  | .endOfBuffer => 20
  | .start _ => 21

end Sys2Proof
end

