-- ==== Sys2Proof/Machine/Operands.lean ====
section
/-! DEFINITION. The operand forms and the arithmetic of the length decoder (`43_remaining_length.md` R91, R101, R102) and
of PUBLISH flags (`42_publish_flags.md`), and the one way a buffer is read (R10, R33). -/

namespace Sys2Proof.Machine

/-- `MemRead(off, 1)`: the byte at an offset of the buffer, or none past its end (R10, R33). -/
def memRead (buf : Buffer) (off : Nat) : Option Byte := buf[off]?

/-- `r_acc + (zext_32(d) << (7*i))` (R102): digit `i` added with weight 128^i (R91). The sum is the 32-bit sum; R102 says
it equals the OR, which holds in the states a run reaches. DEDUCED, safe (log entry 11). -/
def addDigit (acc : Word) (d : Digit) (i : BitVec 2) : Word := acc + ((d.setWidth 32 : Word) <<< (7 * i.toNat))

/-- `r_raw | (zext_32(b) << (8*i))` (R102): byte `i` of the field into bits 8i+7 to 8i. -/
def putByte (raw : Word) (b : Byte) (i : BitVec 2) : Word := raw ||| ((b.setWidth 32 : Word) <<< (8 * i.toNat))

/-- Byte `i` of a packed word, bits 8i+7 to 8i (R36). -/
def byteOf (raw : Word) (i : Nat) : Byte := raw.extractLsb' (8 * i) 8

/-- The low `n` bytes of a packed word, lowest first (R129). -/
def lowBytes (raw : Word) (n : Nat) : List Byte := (List.range n).map (byteOf raw)

/-- `minlen(v)`, the least `k >= 1` with `v < 128^k` (R96). The rule tabulates it to 268,435,455; above that the same
formula gives 5, which no rule uses. DEDUCED, safe (log entry 12). -/
def minlen (v : Nat) : Nat :=
  if v < 128 then 1 else if v < 16384 then 2 else if v < 2097152 then 3 else if v < 268435456 then 4 else 5

/-- `decode_qos` (R85): 00 Zero, 01 One, 10 Two, 11 Invalid. -/
def decodeQos (bits : BitVec 2) : QosLevel :=
  match bits.toNat with
  | 0 => .zero
  | 1 => .one
  | 2 => .two
  | _ => .invalid

/-- `decode_publish_flags` (R86). -/
def decodePublishFlags (f : Nibble) : PublishFlags :=
  { dup := dupField f, qos := decodeQos (qosField f), retain := retainField f }

end Sys2Proof.Machine
end

