-- ==== Sys2Proof/Machine/State.lean ====
section
/-! DEFINITION. The state of the machine (`10_state.md` R16): the eight registers of `FHP`, and the model's own list of
what the host will drive on the input pins. There is no memory: the block stores nothing but these registers (R25, R28). -/

namespace Sys2Proof.Machine

/-- The values of `r_ph` (R18): TYPE, LEN, DONE. R18 asks for a three-valued enumeration, so the encoding 3 cannot be
written down. -/
inductive Phase where
  | type | len | done
  deriving DecidableEq, Repr

/-- The outcome codes (R131), an enumeration as D11 asks; their numbers are `Status.code`. `valueTooLarge` is never in
`r_status` (R22): only `RLENC` raises it. -/
inductive Status where
  | ok | truncatedInput | reservedTypeUsed | invalidFlags | invalidQos
  | malformedRemainingLength | nonMinimalEncoding | valueTooLarge
  deriving DecidableEq, Repr

/-- The eight registers of R16 under the spec's names, 80 bits in all, and `host`, which is the model's own: the pins at
the coming clock edges, the present cycle first. DESIGN CHOICE, safe (log entry 1). -/
structure State where
  r_ph : Phase
  r_mode : Mode
  r_type : Nibble
  r_flags : Nibble
  r_idx : BitVec 2
  r_acc : Word
  r_raw : Word
  r_status : Status
  host : List Cycle
  deriving DecidableEq, Repr

/-- No fault exists: R128, "there is no stuck state, no fault and no refused command"; R140. A type with no constructor,
so nobody raises one. Safe: nothing is hidden by it, since every step answers a next state. -/
inductive Fault where
  deriving DecidableEq, Repr

/-- Why an instruction has no meaning. -/
inductive Refusal where
  /-- Raised by an arm of `exec` whose instruction has no meaning yet; no arm raises it now. Safe: the machine stops. -/
  | notModelled (mnemonic : String)
  deriving DecidableEq, Repr

/-- The machine right after reset (R29, R153): phase TYPE, mode PARSE, all else 0; nothing scheduled on the pins. The
model starts here, which R29 and U3 allow: DESIGN CHOICE, unsafe before the first `rst` or START (log entry 4). -/
def State.reset : State :=
  { r_ph := .type, r_mode := .parse, r_type := 0, r_flags := 0, r_idx := 0, r_acc := 0, r_raw := 0,
    r_status := .ok, host := [] }

end Sys2Proof.Machine
end

