-- ==== Sys2Proof/Machine/Flags.lean ====
section
/-! DEFINITION. The outcome codes (`60_exceptions.md` R131), the reserved-flag table (`40_packet_type.md` R62) and the flag
checks of both levels (`41_flag_validation.md` R80, R84; `42_publish_flags.md` R88, R89). -/

namespace Sys2Proof.Machine

/-- The 3-bit code of an outcome (R131, D11). -/
def Status.code : Status → BitVec 3
  | .ok => 0
  | .truncatedInput => 1
  | .reservedTypeUsed => 2
  | .invalidFlags => 3
  | .invalidQos => 4
  | .malformedRemainingLength => 5
  | .nonMinimalEncoding => 6
  | .valueTooLarge => 7

/-- The 2-bit code of a phase (R18). -/
def Phase.code : Phase → BitVec 2
  | .type => 0
  | .len => 1
  | .done => 2

/-- Which outcome an error is (R131). -/
def errorStatus : ParseError → Status
  | .truncatedInput => .truncatedInput
  | .reservedTypeUsed => .reservedTypeUsed
  | .invalidFlags _ _ => .invalidFlags
  | .invalidQos _ => .invalidQos
  | .malformedRemainingLength => .malformedRemainingLength
  | .nonMinimalEncoding => .nonMinimalEncoding
  | .valueTooLarge => .valueTooLarge

/-- `reserved_flags(t)`, the ReservedFlagTable (R62). It has no value at `Reserved` and `Publish`: R62 and U1 ask for a
partial function there, never a default. DEDUCED, safe (log entry 5). -/
def reservedFlags : PacketType → Option Nibble
  | .reserved => none
  | .connect => some 0x0
  | .connAck => some 0x0
  | .publish => none
  | .pubAck => some 0x0
  | .pubRec => some 0x0
  | .pubRel => some 0x2
  | .pubComp => some 0x0
  | .subscribe => some 0x2
  | .subAck => some 0x0
  | .unsubscribe => some 0x2
  | .unsubAck => some 0x0
  | .pingReq => some 0x0
  | .pingResp => some 0x0
  | .disconnect => some 0x0
  | .auth => some 0x0

/-- `flags_bad` (R84): the type is neither Reserved nor Publish and the nibble differs from the table. -/
def flagsBad (t : PacketType) (f : Nibble) : Bool :=
  match reservedFlags t with
  | some e => f ≠ e
  | none => false

/-- `qos_bad` (R89): a PUBLISH nibble whose QoS bits are 11. -/
def qosBad (t : PacketType) (f : Nibble) : Bool := t = .publish && qosField f = 3

/-- `validate_flags` (R80), its three cases in order. The nibble is typed 4 bits wide, so `flag_nibble & 0x0F` is the
nibble itself (R83); both payload fields are nibbles in a `u8` (R81). -/
def validateFlags (t : PacketType) (n : Nibble) : Result Nibble :=
  match t, reservedFlags t with
  | .reserved, _ => .error .reservedTypeUsed
  | _, none => .ok n
  | _, some e => if n = e then .ok n else .error (.invalidFlags (e.setWidth 8) (n.setWidth 8))

end Sys2Proof.Machine
end

