-- ==== Sys2Proof/Machine/Ops.lean ====
section
/-! DEFINITION. The named operations over the registers: presenting the pins, raising an error (R144), opening a call
(R123), reset (R153), the header byte (R125) and the length byte (R102). There is no memory, so no operation touches one
(R31). -/

namespace Sys2Proof.Machine

/-! ### The pins -/

/-- The pins of the present cycle; undriven pins are low (log entry 2). -/
def present (s : State) : Cycle := s.host.headD Cycle.idle

/-- The clock edge as the host sees it: the present cycle is over. -/
def advance (s : State) : State := { s with host := s.host.tail }

/-- The pins of the present cycle overwritten; the later ones stand. -/
def drivePins (s : State) (c : Cycle) : State := { s with host := c :: s.host.tail }

/-! ### Errors, and the two ways to a fresh call -/

/-- `raise E` (R144): `r_status <- code(E); r_ph <- DONE`. Nothing else is saved or changed (R143). -/
def raise (e : Status) (s : State) : State := { s with r_status := e, r_ph := .done }

/-- The start state for a mode (R123), the only way on after a result (R145). -/
def openCall (m : Mode) (s : State) : State :=
  { s with
    r_ph := (match m with | .parse => .type | .rldec => .len)
    r_mode := m, r_type := 0, r_flags := 0, r_idx := 0, r_acc := 0, r_raw := 0, r_status := .ok }

/-- A cycle with `rst` = 1: every register takes its reset value (R29, R153). -/
def resetRegisters (s : State) : State := { State.reset with host := s.host }

/-! ### Byte 0 of a header -/

/-- `r_type <- t; r_flags <- f` (R20, R125): written whatever the gates say. -/
def setHeader (t f : Nibble) (s : State) : State := { s with r_type := t, r_flags := f }

/-- Byte 0 is accepted: `r_ph <- LEN` (R125). -/
def expectLength (s : State) : State := { s with r_ph := .len }

/-- BYTE in phase TYPE: gates 2, 3 and 4 at once (R125). -/
def byteInType (b : Byte) (s : State) : State :=
  let t := decodeType b
  let f := flagsField b
  let s := setHeader (typeField b) f s
  if t = .reserved then raise .reservedTypeUsed s
  else if flagsBad t f then raise .invalidFlags s
  else if qosBad t f then raise .invalidQos s
  else expectLength s

/-- What byte 0 does for a type whose required flags are `required` (R64, R65, R67 to R78, the Level H line). -/
def fixedFlagsHeader (code required f : Nibble) (s : State) : State :=
  let s := setHeader code f s
  if f = required then expectLength s else raise .invalidFlags s

/-! ### Length bytes -/

/-- A length byte is taken into `r_acc` and `r_raw`, error cases included (R102). -/
def takeLengthByte (b : Byte) (s : State) : State :=
  { s with r_acc := addDigit s.r_acc (digitField b) s.r_idx, r_raw := putByte s.r_raw b s.r_idx }

/-- The next length byte is expected: `r_idx <- i + 1` (R102). -/
def nextLengthByte (s : State) : State := { s with r_idx := s.r_idx + 1 }

/-- The call ends without error: `r_status <- 0; r_ph <- DONE` (R102). -/
def succeed (s : State) : State := { s with r_status := .ok, r_ph := .done }

/-- After a byte with its continuation bit set: the next index, or `MalformedRemainingLength` at the fourth (R93, R102). -/
def continueLength (s : State) : State :=
  if s.r_idx.toNat < 3 then nextLengthByte s else raise .malformedRemainingLength s

/-- After a byte with its continuation bit clear and digit `d`: `NonMinimalEncoding` if it is not the first and `d` is 0,
else the call ends without error (R98, R102). -/
def endLength (d : Digit) (s : State) : State :=
  if 1 ≤ s.r_idx.toNat ∧ d = 0 then raise .nonMinimalEncoding s else succeed s

/-- BYTE in phase LEN (R102). -/
def byteInLen (b : Byte) (s : State) : State :=
  if contField b then continueLength (takeLengthByte b s) else endLength (digitField b) (takeLengthByte b s)

/-! ### A row run in its phase and out of it -/

/-- Byte 0 is a header byte in phase TYPE only. The machine sees bits: in phase LEN it takes the same byte as a length
byte (R102), in phase DONE it ignores it (R126). DESIGN CHOICE, safe (log entry 7). -/
def headerRow (inType : State → State) (b : Byte) (s : State) : Host.Outcome State Fault Refusal :=
  match s.r_ph with
  | .type => .next (inType s)
  | .len => .next (byteInLen b s)
  | .done => .next s

/-- A length byte is one in phase LEN only; in phase TYPE the machine takes the same byte as byte 0 (R125), in phase DONE
it ignores it (R126). DESIGN CHOICE, safe (log entry 7). -/
def lengthRow (inLen : State → State) (b : Byte) (s : State) : Host.Outcome State Fault Refusal :=
  match s.r_ph with
  | .type => .next (byteInType b s)
  | .len => .next (inLen s)
  | .done => .next s

end Sys2Proof.Machine
end

