-- ==== Sys2Proof/Machine/LengthByte.lean ====
section
/-! DEFINITION. The two kinds of length byte (`43_remaining_length.md`): one meaning for each row of format RLB. -/

namespace Sys2Proof.Machine

/-- RLC, a continuation byte (R92, R102): its digit is added, and the next byte follows unless this is the fourth (R93). -/
def execRlc (d : Digit) (s : State) : Host.Outcome State Fault Refusal :=
  lengthRow (fun s => continueLength (takeLengthByte (rlbByte 1 d) s)) (rlbByte 1 d) s

/-- RLT, a terminal byte (R90, R102): its digit is added and the field ends, without error unless it is padded (R97). -/
def execRlt (d : Digit) (s : State) : Host.Outcome State Fault Refusal :=
  lengthRow (fun s => endLength d (takeLengthByte (rlbByte 0 d) s)) (rlbByte 0 d) s

end Sys2Proof.Machine
end

