-- ==== Sys2Proof/Machine/PacketType.lean ====
section
/-! DEFINITION. The sixteen packet types (`40_packet_type.md` R63 to R78): what byte 0 of a header does, one meaning for each
row of format FH0. The Level F side of the same rules is `parse` (`FixedHeader.lean`). -/

namespace Sys2Proof.Machine

/-- RESERVED (R63): always `ReservedTypeUsed`, whatever `f` is. -/
def execReserved (f : Nibble) (s : State) : Host.Outcome State Fault Refusal :=
  headerRow (fun s => raise .reservedTypeUsed (setHeader 0x0 f s)) (fh0Byte 0x0 f) s

/-- CONNECT (R64): required flags 0000. -/
def execConnect (f : Nibble) (s : State) : Host.Outcome State Fault Refusal :=
  headerRow (fixedFlagsHeader 0x1 0x0 f) (fh0Byte 0x1 f) s

/-- CONNACK (R65): required flags 0000. -/
def execConnack (f : Nibble) (s : State) : Host.Outcome State Fault Refusal :=
  headerRow (fixedFlagsHeader 0x2 0x0 f) (fh0Byte 0x2 f) s

/-- PUBLISH (R66): no required flags; `InvalidQos` exactly when the QoS bits are 11. -/
def execPublish (f : Nibble) (s : State) : Host.Outcome State Fault Refusal :=
  headerRow (fun s => if qosField f = 3 then raise .invalidQos (setHeader 0x3 f s) else expectLength (setHeader 0x3 f s))
    (fh0Byte 0x3 f) s

/-- PUBACK (R67): required flags 0000. -/
def execPuback (f : Nibble) (s : State) : Host.Outcome State Fault Refusal :=
  headerRow (fixedFlagsHeader 0x4 0x0 f) (fh0Byte 0x4 f) s

/-- PUBREC (R68): required flags 0000. -/
def execPubrec (f : Nibble) (s : State) : Host.Outcome State Fault Refusal :=
  headerRow (fixedFlagsHeader 0x5 0x0 f) (fh0Byte 0x5 f) s

/-- PUBREL (R69): required flags 0010. -/
def execPubrel (f : Nibble) (s : State) : Host.Outcome State Fault Refusal :=
  headerRow (fixedFlagsHeader 0x6 0x2 f) (fh0Byte 0x6 f) s

/-- PUBCOMP (R70): required flags 0000. -/
def execPubcomp (f : Nibble) (s : State) : Host.Outcome State Fault Refusal :=
  headerRow (fixedFlagsHeader 0x7 0x0 f) (fh0Byte 0x7 f) s

/-- SUBSCRIBE (R71): required flags 0010. -/
def execSubscribe (f : Nibble) (s : State) : Host.Outcome State Fault Refusal :=
  headerRow (fixedFlagsHeader 0x8 0x2 f) (fh0Byte 0x8 f) s

/-- SUBACK (R72): required flags 0000. -/
def execSuback (f : Nibble) (s : State) : Host.Outcome State Fault Refusal :=
  headerRow (fixedFlagsHeader 0x9 0x0 f) (fh0Byte 0x9 f) s

/-- UNSUBSCRIBE (R73): required flags 0010. -/
def execUnsubscribe (f : Nibble) (s : State) : Host.Outcome State Fault Refusal :=
  headerRow (fixedFlagsHeader 0xA 0x2 f) (fh0Byte 0xA f) s

/-- UNSUBACK (R74): required flags 0000. -/
def execUnsuback (f : Nibble) (s : State) : Host.Outcome State Fault Refusal :=
  headerRow (fixedFlagsHeader 0xB 0x0 f) (fh0Byte 0xB f) s

/-- PINGREQ (R75): required flags 0000. -/
def execPingreq (f : Nibble) (s : State) : Host.Outcome State Fault Refusal :=
  headerRow (fixedFlagsHeader 0xC 0x0 f) (fh0Byte 0xC f) s

/-- PINGRESP (R76): required flags 0000. -/
def execPingresp (f : Nibble) (s : State) : Host.Outcome State Fault Refusal :=
  headerRow (fixedFlagsHeader 0xD 0x0 f) (fh0Byte 0xD f) s

/-- DISCONNECT (R77): required flags 0000. -/
def execDisconnect (f : Nibble) (s : State) : Host.Outcome State Fault Refusal :=
  headerRow (fixedFlagsHeader 0xE 0x0 f) (fh0Byte 0xE f) s

/-- AUTH (R78): required flags 0000. -/
def execAuth (f : Nibble) (s : State) : Host.Outcome State Fault Refusal :=
  headerRow (fixedFlagsHeader 0xF 0x0 f) (fh0Byte 0xF f) s

end Sys2Proof.Machine
end

