-- ==== Sys2Proof/Machine/Command.lean ====
section
/-! DEFINITION. The four host commands (`44_fixed_header_decoder.md` section 3): one meaning for each row of format CMD. -/

namespace Sys2Proof.Machine

/-- NOP (R122): no register changes, in any phase. -/
def execNop (s : State) : Host.Outcome State Fault Refusal := .next s

/-- Byte 0 runs the row its high nibble selects (R54, R125: "Per type, this rule is spelled out in" R63 to R78). -/
def runHeaderByte (b : Byte) (s : State) : Host.Outcome State Fault Refusal :=
  let f := flagsField b
  match decodeType b with
  | .reserved => execReserved f s
  | .connect => execConnect f s
  | .connAck => execConnack f s
  | .publish => execPublish f s
  | .pubAck => execPuback f s
  | .pubRec => execPubrec f s
  | .pubRel => execPubrel f s
  | .pubComp => execPubcomp f s
  | .subscribe => execSubscribe f s
  | .subAck => execSuback f s
  | .unsubscribe => execUnsubscribe f s
  | .unsubAck => execUnsuback f s
  | .pingReq => execPingreq f s
  | .pingResp => execPingresp f s
  | .disconnect => execDisconnect f s
  | .auth => execAuth f s

/-- A length byte runs the row its bit 7 selects (R47, R102). -/
def runLengthByte (b : Byte) (s : State) : Host.Outcome State Fault Refusal :=
  if contField b then execRlc (digitField b) s else execRlt (digitField b) s

/-- BYTE (R124): delivers the next byte of the buffer; in TYPE it is byte 0 (R125), in LEN a length byte (R102), in DONE it
is ignored (R126). -/
def execByte (b : Byte) (s : State) : Host.Outcome State Fault Refusal :=
  match s.r_ph with
  | .type => runHeaderByte b s
  | .len => runLengthByte b s
  | .done => .next s

/-- END (R127): `TruncatedInput` if a call is open, nothing in phase DONE. -/
def execEnd (s : State) : Host.Outcome State Fault Refusal :=
  match s.r_ph with
  | .type => .next (raise .truncatedInput s)
  | .len => .next (raise .truncatedInput s)
  | .done => .next s

/-- START (R123): opens a new call from any phase. -/
def execStart (m : Mode) (s : State) : Host.Outcome State Fault Refusal := .next (openCall m s)

end Sys2Proof.Machine
end

