-- ==== Sys2Proof/Machine/Dispatch.lean ====
section
/-! DEFINITION. The dispatch: one arm for each constructor of `Instr`, one direct call of its meaning. -/

namespace Sys2Proof.Machine

def exec (i : Instr) (s : State) : Host.Outcome State Fault Refusal :=
  match i with
  | .reserved f => Sys2Proof.Machine.execReserved f s
  | .connect f => Sys2Proof.Machine.execConnect f s
  | .connack f => Sys2Proof.Machine.execConnack f s
  | .publish f => Sys2Proof.Machine.execPublish f s
  | .puback f => Sys2Proof.Machine.execPuback f s
  | .pubrec f => Sys2Proof.Machine.execPubrec f s
  | .pubrel f => Sys2Proof.Machine.execPubrel f s
  | .pubcomp f => Sys2Proof.Machine.execPubcomp f s
  | .subscribe f => Sys2Proof.Machine.execSubscribe f s
  | .suback f => Sys2Proof.Machine.execSuback f s
  | .unsubscribe f => Sys2Proof.Machine.execUnsubscribe f s
  | .unsuback f => Sys2Proof.Machine.execUnsuback f s
  | .pingreq f => Sys2Proof.Machine.execPingreq f s
  | .pingresp f => Sys2Proof.Machine.execPingresp f s
  | .disconnect f => Sys2Proof.Machine.execDisconnect f s
  | .auth f => Sys2Proof.Machine.execAuth f s
  | .rlc d => Sys2Proof.Machine.execRlc d s
  | .rlt d => Sys2Proof.Machine.execRlt d s
  | .nop => Sys2Proof.Machine.execNop s
  | .byte b => Sys2Proof.Machine.execByte b s
  | .endOfBuffer => Sys2Proof.Machine.execEnd s
  | .start m => Sys2Proof.Machine.execStart m s

end Sys2Proof.Machine
end

