-- ==== Sys2Proof/Machine/Step.lean ====
section
/-! DEFINITION. One clock cycle of `FHP` (`44_fixed_header_decoder.md` R128). -/

namespace Sys2Proof.Machine

/-- The step function (R128): the pins of the present cycle are sampled at the edge; `rst` = 1 overrides the command
(R153), otherwise the command word they form is decoded and run. -/
def step (s : State) : Host.Outcome State Fault Refusal :=
  match (present s).command with
  | none => .next (resetRegisters (advance s))
  | some i => exec i (advance s)

/-- The state with a table word on the pins of the present cycle, `rst` = 0: a byte as a BYTE command, a command word as
its fields. Nothing else changes; `enc_value` stays as it was. How a program comes to run: log entry 10. -/
def State.withFetchWord (s : State) (nbits w : Nat) : State :=
  drivePins s (cycleOfTableWord nbits w (present s).enc_value)

end Sys2Proof.Machine
end

