-- ==== Sys2Proof/Machine/RemainingLength.lean ====
section
/-! DEFINITION. Level F of the remaining-length codec (`43_remaining_length.md`): `decode_remaining_length` (R90) and
`encode_remaining_length` (R103), pure functions (R12). -/

namespace Sys2Proof.Machine

/-- The loop of R90 at length byte `i` with the value so far; `left` counts the iterations that may follow this one, so
at `i` = 3 it is 0. -/
def decodeLengthFrom (bytes : Buffer) (i : Nat) (value : Word) (left : Nat) : Result RemainingLength :=
  match memRead bytes i with
  | none => .error .truncatedInput
  | some b =>
    let v := value + (digitField b).setWidth 32 * BitVec.ofNat 32 (Config.rlBase ^ i)
    if contField b then
      match left with
      | 0 => .error .malformedRemainingLength
      | left + 1 => decodeLengthFrom bytes (i + 1) v left
    else if minlen v.toNat < i + 1 then .error .nonMinimalEncoding
    else .ok { value := v, encoded_byte_count := i + 1, raw_bytes := bytes.take (i + 1) }

/-- `decode_remaining_length` (R90): at most four bytes, offset 0 first. -/
def decodeRemainingLength (bytes : Buffer) : Result RemainingLength :=
  decodeLengthFrom bytes 0 0 (Config.rlMaxBytes - 1)

/-- How many length bytes the loop of R90 reads when at most `max` are allowed: it stops after the first byte with its
continuation bit clear (R92). -/
def lengthBytesRead : (max : Nat) → Buffer → Nat
  | 0, _ => 0
  | _ + 1, [] => 0
  | max + 1, b :: rest => if contField b then lengthBytesRead max rest + 1 else 1

/-- The loop of R103: `value % 128` with the continuation bit on every byte but the last. At most `fuel` bytes. -/
def encodeDigits : (fuel : Nat) → Word → List Byte
  | 0, _ => []
  | fuel + 1, v =>
    let d : Digit := v.setWidth 7
    let rest := v / BitVec.ofNat 32 Config.rlBase
    if rest = 0 then [rlbByte 0 d] else rlbByte 1 d :: encodeDigits fuel rest

/-- `encode_remaining_length` (R103). R104: a value above 268,435,455 is `ValueTooLarge`; a value that is not needs at
most four digits. -/
def encodeRemainingLength (value : Word) : Result RemainingLength :=
  if Config.rlValueMax < value.toNat then .error .valueTooLarge
  else
    let out := encodeDigits Config.rlMaxBytes value
    .ok { value := value, encoded_byte_count := out.length, raw_bytes := out }

end Sys2Proof.Machine
end

