-- ==== Sys2Proof/Machine/FixedHeader.lean ====
section
/-! DEFINITION. Level F of the fixed-header decoder: `parse`, its six gates in order (`44_fixed_header_decoder.md` R108),
and the deciding length (R117). -/

namespace Sys2Proof.Machine

/-- Gates 2 to 4 on byte 0 (R110, R111, R112): the type, the raw flag nibble, the PUBLISH view of it. -/
def parseByte0 (b0 : Byte) : Result (PacketType × Nibble × Option PublishFlags) :=
  let t := decodeType b0
  let f := flagsField b0
  if t = .reserved then .error .reservedTypeUsed
  else
    match validateFlags t f with
    | .error e => .error e
    | .ok nibble =>
      if t = .publish then
        let pf := decodePublishFlags nibble
        if pf.qos = .invalid then .error (.invalidQos (qosField nibble)) else .ok (t, nibble, some pf)
      else .ok (t, nibble, none)

/-- `parse` (R108): gate 1 needs byte 0 (R109), gate 5 decodes the length after it (R113), gate 6 builds the header with
the raw nibble in a `u8` (R114). -/
def parse (buf : Buffer) : Result FixedHeader :=
  match memRead buf 0 with
  | none => .error .truncatedInput
  | some b0 =>
    match parseByte0 b0 with
    | .error e => .error e
    | .ok (t, f, pf) =>
      match decodeRemainingLength (buf.drop 1) with
      | .error e => .error e
      | .ok rl => .ok { packet_type := t, flags := f.setWidth 8, publish_flags := pf, remaining_length := rl }

/-- The deciding length `m(buf)` (R117): 1 if gate 2, 3 or 4 raises, else 1 and the length bytes read. R117 defines it
only for a buffer that `parse` does not find truncated. -/
def decidingLength (buf : Buffer) : Nat :=
  match memRead buf 0 with
  | none => 0
  | some b0 =>
    match parseByte0 b0 with
    | .error _ => 1
    | .ok _ => 1 + lengthBytesRead Config.rlMaxBytes (buf.drop 1)

end Sys2Proof.Machine
end

