-- ==== Sys2Proof/Machine/Rlenc.lean ====
section
/-! DEFINITION. `RLENC`, the encoder unit (`43_remaining_length.md` R107): three output ports, a function of the input pin
`enc_value` in the same cycle. It shares no state and no signal with `FHP` (R14). -/

namespace Sys2Proof.Machine

/-- The output ports of `RLENC` (R107). -/
structure EncPorts where
  enc_status : BitVec 3
  enc_count : BitVec 3
  enc_raw : Word
  deriving DecidableEq, Repr

/-- Byte `i` of an `n`-byte field: `value[7i+6 : 7i]` and the continuation bit on every byte but the last (R103, closed
form); 0 from byte `n` on (R107). -/
def encByte (v : Word) (n i : Nat) : Byte :=
  if i < n then rlbByte (if i + 1 < n then 1 else 0) (v.extractLsb' (7 * i) 7) else 0

/-- `RLENC` (R107): code 7 and zeros if any of `enc_value[31:28]` is 1, else the minimal field packed low byte first. -/
def rlenc (v : Word) : EncPorts :=
  if v.extractLsb' 28 4 ≠ 0 then { enc_status := Status.valueTooLarge.code, enc_count := 0, enc_raw := 0 }
  else
    let n := minlen v.toNat
    { enc_status := Status.ok.code
      enc_count := BitVec.ofNat 3 n
      enc_raw := encByte v n 3 ++ encByte v n 2 ++ encByte v n 1 ++ encByte v n 0 }

end Sys2Proof.Machine
end

