-- ==== Sys2Proof/Machine/Ports.lean ====
section
/-! DEFINITION. The output ports of `FHP`, functions of the registers alone (`10_state.md` R27), and how the host reads a
result from them (`44_fixed_header_decoder.md` R129). -/

namespace Sys2Proof.Machine

/-- The output ports of `FHP` (R27). `err_expected` is `none` where R27 would read the reserved-flag table at a type it has
no value for, which only a state no run reaches asks for (U1). DEDUCED, safe (log entry 5). -/
structure Ports where
  done : Bool
  status : BitVec 3
  packet_type : Nibble
  flags : Nibble
  pub_valid : Bool
  dup : Bool
  qos : BitVec 2
  retain : Bool
  rl_value : Word
  rl_count : BitVec 3
  rl_raw : Word
  err_expected : Option Nibble
  err_found : Nibble
  deriving DecidableEq, Repr

/-- Every port at 0: what R27 gives while no result is present. -/
def Ports.zero : Ports :=
  { done := false, status := 0, packet_type := 0, flags := 0, pub_valid := false, dup := false, qos := 0,
    retain := false, rl_value := 0, rl_count := 0, rl_raw := 0, err_expected := some 0, err_found := 0 }

/-- The port equations (R27). -/
def ports (s : State) : Ports :=
  let done := s.r_ph = .done
  let ok := done ∧ s.r_status = .ok
  let pub := ok ∧ s.r_mode = .parse ∧ s.r_type = 3
  { done := done
    status := if done then s.r_status.code else 0
    packet_type := if ok then s.r_type else 0
    flags := if ok then s.r_flags else 0
    pub_valid := pub
    dup := if pub then dupField s.r_flags else false
    qos := if pub then qosField s.r_flags else 0
    retain := if pub then retainField s.r_flags else false
    rl_value := if ok then s.r_acc else 0
    rl_count := if ok then s.r_idx.setWidth 3 + 1 else 0
    rl_raw := if ok then s.r_raw else 0
    err_expected :=
      if done ∧ s.r_status = .invalidFlags then reservedFlags (PacketType.ofCode s.r_type) else some 0
    err_found :=
      if done ∧ s.r_status = .invalidFlags then s.r_flags
      else if done ∧ s.r_status = .invalidQos then 0b0011 else 0 }

/-- `RLENC`'s outputs in the present cycle (R107). -/
def encPorts (s : State) : EncPorts := rlenc (present s).enc_value

/-- The error a status code of 1 to 6 stands for, with its payload from the error ports (R129). -/
def readError (p : Ports) : Option ParseError :=
  match p.status.toNat with
  | 1 => some .truncatedInput
  | 2 => some .reservedTypeUsed
  | 3 => p.err_expected.map fun e => .invalidFlags (e.setWidth 8) (p.err_found.setWidth 8)
  | 4 => some (.invalidQos (p.err_found.setWidth 2))
  | 5 => some .malformedRemainingLength
  | 6 => some .nonMinimalEncoding
  | _ => none

/-- The remaining length on the `rl_*` ports (R129). -/
def readRemainingLength (p : Ports) : RemainingLength :=
  { value := p.rl_value, encoded_byte_count := p.rl_count.toNat, raw_bytes := lowBytes p.rl_raw p.rl_count.toNat }

/-- The result of a PARSE call read from the ports: none while `done` = 0 (R129). -/
def readHeader (p : Ports) : Option (Result FixedHeader) :=
  if !p.done then none
  else if p.status = 0 then
    some (.ok
      { packet_type := PacketType.ofCode p.packet_type
        flags := p.flags.setWidth 8
        publish_flags :=
          if p.pub_valid then some { dup := p.dup, qos := decodeQos p.qos, retain := p.retain } else none
        remaining_length := readRemainingLength p })
  else (readError p).map .error

/-- The result of an RLDEC call read from the ports: none while `done` = 0 (R129). -/
def readLength (p : Ports) : Option (Result RemainingLength) :=
  if !p.done then none
  else if p.status = 0 then some (.ok (readRemainingLength p))
  else (readError p).map .error

end Sys2Proof.Machine
end

