-- ==== Sys2Proof/Machine/Script.lean ====
section
/-! DEFINITION. Host programs (`30_encoding.md` R58): one command a cycle, and the shorthands FEED and FEEDRL. Pins a command
does not read are 0, as `95_test_vectors.md` writes them. -/

namespace Sys2Proof.Machine

/-- A cycle that presents a command word with `rst` = 0. -/
def cycleOfWord (w : CommandWord) : Cycle :=
  { rst := false, cmd := cmdField w, mode := modeField w, in_byte := inByteField w, enc_value := 0 }

/-- The cycle of a host command (R58). -/
def cycleOf (i : Instr) : Cycle := cycleOfWord i.word

/-- `RESET`: a cycle with `rst` = 1 (R58, R153). -/
def resetCycle : Cycle := { Cycle.idle with rst := true }

/-- One BYTE command for each byte, in offset order (R30). -/
def byteCycles (buf : Buffer) : List Cycle := buf.map fun b => cycleOf (.byte b)

/-- `FEED [b0, b1, ...]` in PARSE mode, `FEEDRL [...]` in RLDEC mode: START, the bytes, END (R58). -/
def feed (m : Mode) (buf : Buffer) : List Cycle :=
  cycleOf (.start m) :: (byteCycles buf ++ [cycleOf .endOfBuffer])

end Sys2Proof.Machine
end

