-- ==== Sys2Proof/Safety.lean ====
section
/-! DEFINITION. The terms claims are stated in: runs of several cycles, what it means that a host delivers a buffer (R130),
and the register invariant of a run (R18 to R22, R89, R100). -/

namespace Sys2Proof.Machine

/-- `n` clock cycles. -/
def clocks : Nat → State → Host.Outcome State Fault Refusal
  | 0, s => .next s
  | n + 1, s =>
    match step s with
    | .next t => clocks n t
    | .fault r => .fault r
    | .refused r => .refused r

/-- From the registers of `s`, with exactly the cycles `cs` on the pins, the machine comes to `t`. -/
def Runs (s : State) (cs : List Cycle) (t : State) : Prop := clocks cs.length { s with host := cs } = .next t

/-- The cycles `cs` deliver the buffer `buf`: BYTE commands with its bytes in offset order and any number of NOPs anywhere,
`rst` = 0 throughout (R130). The pins a command does not read are arbitrary. -/
inductive Delivers : Buffer → List Cycle → Prop where
  | nil : Delivers [] []
  | nop {buf : Buffer} {c : Cycle} {cs : List Cycle} (h : c.command = some .nop) (rest : Delivers buf cs) :
      Delivers buf (c :: cs)
  | byte {b : Byte} {buf : Buffer} {c : Cycle} {cs : List Cycle} (h : c.command = some (.byte b))
      (rest : Delivers buf cs) : Delivers (b :: buf) (c :: cs)

/-- A cycle whose command is NOP, BYTE or END: no reset and no START. -/
def KeepsCall (c : Cycle) : Prop :=
  c.command = some .nop ∨ (∃ b, c.command = some (.byte b)) ∨ c.command = some .endOfBuffer

/-- The cycle opens a call: `rst` = 1 or START (R155). -/
def OpensCall (c : Cycle) : Prop := c.rst = true ∨ ∃ m, c.command = some (.start m)

/-- Byte 0 of the call, as `r_type` and `r_flags` hold it, passed gates 2, 3 and 4 (R125). -/
def HeaderAccepted (s : State) : Prop :=
  PacketType.ofCode s.r_type ≠ .reserved ∧ flagsBad (PacketType.ofCode s.r_type) s.r_flags = false ∧
    qosBad (PacketType.ofCode s.r_type) s.r_flags = false

/-- The registers as a remaining length: what R102 says they hold after an `Ok` ending. -/
def lengthRecord (s : State) : RemainingLength :=
  { value := s.r_acc, encoded_byte_count := s.r_idx.toNat + 1, raw_bytes := lowBytes s.r_raw (s.r_idx.toNat + 1) }

/-- A row of a packet type whose flag nibble is fixed: its constructor, its variant, its code (R53). -/
structure FixedFlagsRow where
  row : Nibble → Instr
  variant : PacketType
  code : Nibble

/-- The eleven packet types whose required flags are 0000 (R62). -/
def zeroFlagsRows : List FixedFlagsRow :=
  [⟨.connect, .connect, 1⟩, ⟨.connack, .connAck, 2⟩, ⟨.puback, .pubAck, 4⟩, ⟨.pubrec, .pubRec, 5⟩,
   ⟨.pubcomp, .pubComp, 7⟩, ⟨.suback, .subAck, 9⟩, ⟨.unsuback, .unsubAck, 11⟩, ⟨.pingreq, .pingReq, 12⟩,
   ⟨.pingresp, .pingResp, 13⟩, ⟨.disconnect, .disconnect, 14⟩, ⟨.auth, .auth, 15⟩]

/-- The three packet types whose required flags are 0010 (R62). -/
def twoFlagsRows : List FixedFlagsRow :=
  [⟨.pubrel, .pubRel, 6⟩, ⟨.subscribe, .subscribe, 8⟩, ⟨.unsubscribe, .unsubscribe, 10⟩]

/-- What is true of the registers in every state a run from reset reaches. -/
structure RegInv (s : State) : Prop where
  /-- In phase TYPE no byte is consumed and the call is a PARSE call (R18, R20, R21, R125). -/
  typeFresh : s.r_ph = .type →
    s.r_mode = .parse ∧ s.r_type = 0 ∧ s.r_flags = 0 ∧ s.r_idx = 0 ∧ s.r_acc = 0 ∧ s.r_raw = 0
  /-- "While `r_ph` is not DONE, `r_status` is 0" (R22). -/
  statusOpen : s.r_ph ≠ .done → s.r_status = .ok
  /-- "`r_type` and `r_flags` ... in an RLDEC call both stay 0" (R20). -/
  rldecHeader : s.r_mode = .rldec → s.r_type = 0 ∧ s.r_flags = 0
  /-- In phase LEN `r_acc < 128^r_idx` and the bits of `r_raw` from `8*r_idx` on are 0 (R21); the bytes consumed all have
  their continuation bit set (R102) and `r_acc` is the value their digits spell (R52). -/
  lenSoFar : s.r_ph = .len →
    s.r_acc.toNat < 128 ^ s.r_idx.toNat ∧ s.r_raw.toNat < 256 ^ s.r_idx.toNat ∧
      (∀ b ∈ lowBytes s.r_raw s.r_idx.toNat, contField b = true) ∧
      spelledValue (lowBytes s.r_raw s.r_idx.toNat) = s.r_acc.toNat
  /-- "in every phase `r_acc <= 268,435,455`" (R21). -/
  accBound : s.r_acc.toNat ≤ Config.rlValueMax
  /-- A PARSE call gets to its length field only with an accepted byte 0 (R120, R125). -/
  accepted : s.r_mode = .parse →
    (s.r_ph = .len ∨ s.r_ph = .done ∧ (s.r_status = .ok ∨ s.r_status = .malformedRemainingLength ∨
      s.r_status = .nonMinimalEncoding)) → HeaderAccepted s
  /-- After an `Ok` ending the registers hold a well-formed remaining length, the higher bytes of `r_raw` 0 (R102). -/
  okRecord : s.r_ph = .done → s.r_status = .ok →
    (lengthRecord s).wellFormed = true ∧ s.r_raw.toNat < 256 ^ (s.r_idx.toNat + 1)
  /-- A gate error belongs to a byte 0 that fails that gate, in a PARSE call (R133, R134, R135). -/
  gateErrors :
    (s.r_status = .reservedTypeUsed → s.r_mode = .parse ∧ PacketType.ofCode s.r_type = .reserved) ∧
      (s.r_status = .invalidFlags → s.r_mode = .parse ∧ flagsBad (PacketType.ofCode s.r_type) s.r_flags = true) ∧
      (s.r_status = .invalidQos → s.r_mode = .parse ∧ qosBad (PacketType.ofCode s.r_type) s.r_flags = true)
  /-- `MalformedRemainingLength` is found at the fourth length byte, `NonMinimalEncoding` after the first (R93, R97). -/
  lengthErrors :
    (s.r_status = .malformedRemainingLength → s.r_idx = 3) ∧ (s.r_status = .nonMinimalEncoding → s.r_idx ≠ 0)
  /-- "Code 7, ValueTooLarge, is never written to `r_status`" (R22). -/
  neverTooLarge : s.r_status ≠ .valueTooLarge

end Sys2Proof.Machine
end

