-- ==== Sys2Proof/Certificates/Slice0/Obligations.lean ====
section
/-! DEFINITION. The statements for the provers, each formalising the rules of the spec its docstring names. A statement that
an instruction ANSWERS a next state gives that state in full, `{ s with ... }`, so it states the instruction's frame too:
every register it does not name, and the host's pins, are unchanged. There is no memory (R31), so no frame speaks of bytes. -/

open Sys2Proof Sys2Proof.Machine

/-! ### Reset and the host commands -/

/-- R153: in a cycle with `rst` = 1 the command is ignored, every register takes its reset value; the same as START PARSE;
every port then reads 0 (R29). -/
def Obligations.ResetCycleLoadsTheResetValues : Prop :=
  ∀ s : State, (present s).rst = true →
    step s = .next { r_ph := .type, r_mode := .parse, r_type := 0, r_flags := 0, r_idx := 0, r_acc := 0, r_raw := 0,
                     r_status := .ok, host := s.host.tail } ∧
    step s = exec (.start .parse) (advance s) ∧
    ∀ t, step s = .next t → ports t = Ports.zero

/-- R29, R153: the reset state, register by register, and nothing on its ports. That the model STARTS there is its choice
(log entry 4), and so is the empty list of pins (log entry 1). -/
def Obligations.ResetStateHoldsTheTableValues : Prop :=
  State.reset.r_ph = .type ∧ State.reset.r_mode = .parse ∧ State.reset.r_type = 0 ∧ State.reset.r_flags = 0 ∧
    State.reset.r_idx = 0 ∧ State.reset.r_acc = 0 ∧ State.reset.r_raw = 0 ∧ State.reset.r_status = .ok ∧
    ports State.reset = Ports.zero

/-- R122: no register changes, in any phase; outputs keep their values. -/
def Obligations.NopChangesNoRegister : Prop :=
  ∀ s : State, exec .nop s = .next s

/-- R123: START opens a new call from any phase; every port then reads 0; two STARTs equal the last one. -/
def Obligations.StartOpensAFreshCall : Prop :=
  ∀ (m : Mode) (s : State), ∃ t : State,
    exec (.start m) s = .next t ∧
    t = { r_ph := if m = .parse then .type else .len, r_mode := m, r_type := 0, r_flags := 0, r_idx := 0, r_acc := 0,
          r_raw := 0, r_status := .ok, host := s.host } ∧
    ports t = Ports.zero ∧
    ∀ (m' : Mode) (u : State), exec (.start m') s = .next u → exec (.start m) u = .next t

/-- R127: END with a call open is `TruncatedInput`; in DONE it does nothing. -/
def Obligations.EndReportsTruncationOfAnOpenCall : Prop :=
  ∀ s : State,
    (s.r_ph ≠ .done → exec .endOfBuffer s = .next { s with r_status := .truncatedInput, r_ph := .done }) ∧
    (s.r_ph = .done → exec .endOfBuffer s = .next s)

/-- R125: BYTE in phase TYPE is byte 0, gates 2, 3 and 4 at once. -/
def Obligations.ByteInTypePhaseRunsTheThreeGates : Prop :=
  ∀ (b : Byte) (s : State), s.r_ph = .type →
    exec (.byte b) s = .next
      (if b.extractLsb' 4 4 = 0 then
         { s with r_type := b.extractLsb' 4 4, r_flags := b.extractLsb' 0 4,
                  r_status := .reservedTypeUsed, r_ph := .done }
       else if b.extractLsb' 4 4 ≠ 3 ∧
           reservedFlags (PacketType.ofCode (b.extractLsb' 4 4)) ≠ some (b.extractLsb' 0 4) then
         { s with r_type := b.extractLsb' 4 4, r_flags := b.extractLsb' 0 4,
                  r_status := .invalidFlags, r_ph := .done }
       else if b.extractLsb' 4 4 = 3 ∧ b.extractLsb' 1 2 = 3 then
         { s with r_type := b.extractLsb' 4 4, r_flags := b.extractLsb' 0 4,
                  r_status := .invalidQos, r_ph := .done }
       else { s with r_type := b.extractLsb' 4 4, r_flags := b.extractLsb' 0 4, r_ph := .len })

/-- R102: BYTE in phase LEN, its two unconditional writes and its four cases; on a run the sum is the OR, and after an `Ok`
ending the registers hold the record. -/
def Obligations.ByteInLenPhaseAddsOneDigit : Prop :=
  ∀ (b : Byte) (s s1 : State), s.r_ph = .len →
    s1 = { s with
      r_acc := s.r_acc + ((b.extractLsb' 0 7).setWidth 32 <<< (7 * s.r_idx.toNat))
      r_raw := s.r_raw ||| (b.setWidth 32 <<< (8 * s.r_idx.toNat)) } →
    (b.getLsbD 7 = true → s.r_idx.toNat < 3 → exec (.byte b) s = .next { s1 with r_idx := s.r_idx + 1 }) ∧
    (b.getLsbD 7 = true → s.r_idx.toNat = 3 →
      exec (.byte b) s = .next { s1 with r_status := .malformedRemainingLength, r_ph := .done }) ∧
    (b.getLsbD 7 = false → 1 ≤ s.r_idx.toNat → b.extractLsb' 0 7 = 0 →
      exec (.byte b) s = .next { s1 with r_status := .nonMinimalEncoding, r_ph := .done }) ∧
    (b.getLsbD 7 = false → s.r_idx.toNat = 0 ∨ b.extractLsb' 0 7 ≠ 0 →
      exec (.byte b) s = .next { s1 with r_status := .ok, r_ph := .done } ∧
      (RegInv s → (lengthRecord s1).wellFormed = true ∧ s1.r_raw.toNat < 256 ^ (s.r_idx.toNat + 1))) ∧
    (RegInv s → s1.r_acc = s.r_acc ||| ((b.extractLsb' 0 7).setWidth 32 <<< (7 * s.r_idx.toNat)))

/-- R126: BYTE in phase DONE is ignored, no register changes. -/
def Obligations.ByteInDonePhaseIsIgnored : Prop :=
  ∀ (b : Byte) (s : State), s.r_ph = .done → exec (.byte b) s = .next s

/-! ### The rows of byte 0 and of a length byte -/

/-- R64, R65, R67, R68, R70, R72, R74 to R78: the eleven types with required flags 0000, Level H and Level F. -/
def Obligations.ZeroFlagsTypesAcceptOnlyZeroFlags : Prop :=
  ∀ r ∈ zeroFlagsRows, ∀ (f : Nibble) (s : State) (rest : Buffer),
    encode (r.row f) = [r.code ++ f] ∧
    (s.r_ph = .type → f = 0 →
      exec (r.row f) s = .next { s with r_type := r.code, r_flags := f, r_ph := .len }) ∧
    (s.r_ph = .type → f ≠ 0 → ∃ t : State,
      exec (r.row f) s = .next t ∧
      t = { s with r_type := r.code, r_flags := f, r_status := .invalidFlags, r_ph := .done } ∧
      (ports t).err_expected = some 0 ∧ (ports t).err_found = f) ∧
    parse ((r.code ++ f) :: rest) =
      if f = 0 then
        (decodeRemainingLength rest).map fun rl =>
          { packet_type := r.variant, flags := 0, publish_flags := none, remaining_length := rl }
      else .error (.invalidFlags 0 (f.setWidth 8))

/-- R69, R71, R73: PUBREL, SUBSCRIBE and UNSUBSCRIBE, with required flags 0010, Level H and Level F. -/
def Obligations.TwoFlagsTypesAcceptOnlyFlagsTwo : Prop :=
  ∀ r ∈ twoFlagsRows, ∀ (f : Nibble) (s : State) (rest : Buffer),
    encode (r.row f) = [r.code ++ f] ∧
    (s.r_ph = .type → f = 2 →
      exec (r.row f) s = .next { s with r_type := r.code, r_flags := f, r_ph := .len }) ∧
    (s.r_ph = .type → f ≠ 2 → ∃ t : State,
      exec (r.row f) s = .next t ∧
      t = { s with r_type := r.code, r_flags := f, r_status := .invalidFlags, r_ph := .done } ∧
      (ports t).err_expected = some 2 ∧ (ports t).err_found = f) ∧
    parse ((r.code ++ f) :: rest) =
      if f = 2 then
        (decodeRemainingLength rest).map fun rl =>
          { packet_type := r.variant, flags := 2, publish_flags := none, remaining_length := rl }
      else .error (.invalidFlags 2 (f.setWidth 8))

/-- R63: RESERVED is always `ReservedTypeUsed`, whatever `f` is and whatever follows. -/
def Obligations.ReservedTypeIsAlwaysRejected : Prop :=
  ∀ (f : Nibble) (s : State) (rest : Buffer),
    encode (.reserved f) = [0#4 ++ f] ∧
    (s.r_ph = .type → ∃ t : State,
      exec (.reserved f) s = .next t ∧
      t = { s with r_type := 0, r_flags := f, r_status := .reservedTypeUsed, r_ph := .done } ∧
      (ports t).err_expected = some 0 ∧ (ports t).err_found = 0) ∧
    parse ((0#4 ++ f) :: rest) = .error .reservedTypeUsed

/-- R66: PUBLISH has no fixed flags; it fails gate 4 exactly when its QoS bits are 11, Level H and Level F. -/
def Obligations.PublishRejectsOnlyQosThree : Prop :=
  ∀ (f : Nibble) (s : State) (rest : Buffer),
    encode (.publish f) = [3#4 ++ f] ∧
    (s.r_ph = .type → f.extractLsb' 1 2 ≠ 3 →
      exec (.publish f) s = .next { s with r_type := 3, r_flags := f, r_ph := .len }) ∧
    (s.r_ph = .type → f.extractLsb' 1 2 = 3 → ∃ t : State,
      exec (.publish f) s = .next t ∧
      t = { s with r_type := 3, r_flags := f, r_status := .invalidQos, r_ph := .done } ∧
      (ports t).err_expected = some 0 ∧ (ports t).err_found = 3) ∧
    parse ((3#4 ++ f) :: rest) =
      if f.extractLsb' 1 2 = 3 then .error (.invalidQos 3)
      else (decodeRemainingLength rest).map fun rl =>
        { packet_type := .publish, flags := f.setWidth 8,
          publish_flags := some { dup := f.getLsbD 3, qos := decodeQos (f.extractLsb' 1 2), retain := f.getLsbD 0 },
          remaining_length := rl }

/-- R102 for a byte with its continuation bit set (row RLC): the field goes on, or at the fourth byte is malformed. -/
def Obligations.ContinuationByteGoesOnOrIsMalformed : Prop :=
  ∀ (d : Digit) (s : State), s.r_ph = .len →
    (s.r_idx.toNat < 3 → exec (.rlc d) s = .next
      { s with r_acc := s.r_acc + (d.setWidth 32 <<< (7 * s.r_idx.toNat)),
               r_raw := s.r_raw ||| (((1#1 ++ d : BitVec 8).setWidth 32) <<< (8 * s.r_idx.toNat)),
               r_idx := s.r_idx + 1 }) ∧
    (s.r_idx.toNat = 3 → exec (.rlc d) s = .next
      { s with r_acc := s.r_acc + (d.setWidth 32 <<< (7 * s.r_idx.toNat)),
               r_raw := s.r_raw ||| (((1#1 ++ d : BitVec 8).setWidth 32) <<< (8 * s.r_idx.toNat)),
               r_status := .malformedRemainingLength, r_ph := .done })

/-- R102 for a byte with its continuation bit clear (row RLT): the call ends, without error unless the field is padded. -/
def Obligations.TerminalByteEndsTheCall : Prop :=
  ∀ (d : Digit) (s : State), s.r_ph = .len →
    exec (.rlt d) s = .next
      { s with r_acc := s.r_acc + (d.setWidth 32 <<< (7 * s.r_idx.toNat)),
               r_raw := s.r_raw ||| (((0#1 ++ d : BitVec 8).setWidth 32) <<< (8 * s.r_idx.toNat)),
               r_status := if s.r_idx ≠ 0 ∧ d = 0 then .nonMinimalEncoding else .ok, r_ph := .done }

/-- A header row or a length row, in EVERY phase, does what a BYTE command with its byte does. In its own phase that is the
spec's rule (R124, R125); out of its phase it is the model's choice (log entry 7). -/
def Obligations.WireRowActsAsItsByteInEveryPhase : Prop :=
  ∀ (i : Instr) (b : Byte) (s : State), i.format ≠ .cmd → encode i = [b] → exec i s = exec (.byte b) s

/-! ### The step function -/

/-- R128: a step with `rst` = 0 runs the instruction its command word decodes to. -/
def Obligations.StepRunsTheDecodedCommand : Prop :=
  ∀ s : State, (present s).rst = false → step s = exec (decodeCommand (present s).word) (advance s)

/-- R124: a BYTE command runs the header row its byte decodes to in phase TYPE, the length row in phase LEN, and nothing in
phase DONE. Through this the statements about the wire rows reach a run. -/
def Obligations.StepRunsTheWireRowOfThePhase : Prop :=
  ∀ (s : State) (b : Byte), (present s).command = some (.byte b) →
    (s.r_ph = .type → step s = exec (decodeFh0 b) (advance s)) ∧
    (s.r_ph = .len → step s = exec (decodeRlb b) (advance s)) ∧
    (s.r_ph = .done → step s = .next (advance s))

/-- A table word on the pins runs, in phase TYPE, as the instruction `decodeTableWord` reads from it. How 8-bit words are
read is the model's choice (log entries 8 and 9). -/
def Obligations.TableWordRunsAsItsDecodedInstruction : Prop :=
  ∀ (s : State) (nbits w : Nat) (i : Instr), decodeTableWord nbits w = some i → s.r_ph = .type →
    step (s.withFetchWord nbits w) = exec i (advance s)

/-- R128: `step` is total, there is no stuck state, no fault and no refused command; one cycle of pins is used up. -/
def Obligations.StepAlwaysAnswersANextState : Prop :=
  ∀ s : State, ∃ t : State, step s = .next t ∧ t.host = s.host.tail

/-- R128: `mode` is read only by START and `in_byte` only by BYTE; `rst` = 1 hides them all; `enc_value` belongs to `RLENC`
(R14), so no step of `FHP` depends on it. -/
def Obligations.UnreadPinsHaveNoEffect : Prop :=
  ∀ (s : State) (c c' : Cycle), c.rst = c'.rst →
    (c.rst = false →
      c.cmd = c'.cmd ∧ (c.cmd = 3 → c.mode = c'.mode) ∧ (c.cmd = 1 → c.in_byte = c'.in_byte)) →
    step (drivePins s c) = step (drivePins s c')

/-- R123: nothing of an earlier call survives a START or a reset: two machines with the same pins are the same after it,
whatever their registers held. -/
def Obligations.NothingOfAnEarlierCallSurvives : Prop :=
  ∀ s s' : State, s.host = s'.host → OpensCall (present s) → step s = step s'

/-- R120: the transitions `r_ph` can make are exactly those of its table. -/
def Obligations.PhaseTransitionsAreTheTable : Prop :=
  ∀ s : State, ∃ t : State, step s = .next t ∧
    ((present s).rst = true ∨ (present s).command = some (.start .parse) → t.r_ph = .type) ∧
    ((present s).command = some (.start .rldec) → t.r_ph = .len) ∧
    ((present s).command = some .nop → t.r_ph = s.r_ph) ∧
    (∀ b, (present s).command = some (.byte b) → s.r_ph = .type →
      t.r_ph = match parseByte0 b with | .ok _ => .len | .error _ => .done) ∧
    (∀ b, (present s).command = some (.byte b) → s.r_ph = .len →
      if contField b = true ∧ s.r_idx.toNat < 3 then t.r_ph = .len ∧ t.r_idx = s.r_idx + 1 else t.r_ph = .done) ∧
    (∀ b, (present s).command = some (.byte b) → s.r_ph = .done → t.r_ph = .done) ∧
    ((present s).command = some .endOfBuffer → t.r_ph = .done)

/-- R19: `r_mode` is written only by START, from the `mode` pin, and by `rst`, to PARSE. -/
def Obligations.ModeIsWrittenOnlyByStartAndReset : Prop :=
  ∀ s t : State, step s = .next t →
    ((present s).rst = true → t.r_mode = .parse) ∧
    (∀ m, (present s).command = some (.start m) → t.r_mode = m) ∧
    (¬ OpensCall (present s) → t.r_mode = s.r_mode)

/-- R20: `r_type` and `r_flags` are written by the BYTE consumed in phase TYPE, whatever its gates say, cleared by START and
`rst`, and by nothing else; in an RLDEC call both stay 0. -/
def Obligations.HeaderRegistersAreWrittenOnlyByByteZero : Prop :=
  ∀ s t : State, step s = .next t →
    (OpensCall (present s) → t.r_type = 0 ∧ t.r_flags = 0) ∧
    (∀ b, (present s).command = some (.byte b) → s.r_ph = .type →
      t.r_type = b.extractLsb' 4 4 ∧ t.r_flags = b.extractLsb' 0 4) ∧
    (¬ OpensCall (present s) → (s.r_ph ≠ .type ∨ ∀ b, (present s).command ≠ some (.byte b)) →
      t.r_type = s.r_type ∧ t.r_flags = s.r_flags) ∧
    (RegInv s → s.r_mode = .rldec → ¬ OpensCall (present s) → t.r_type = 0 ∧ t.r_flags = 0)

/-- R21: `r_idx`, `r_acc`, `r_raw` are cleared by START and `rst` and written only by a BYTE consumed in phase LEN; `r_idx`
moves only when that byte has its continuation bit set and `r_idx` < 3, and then by one. -/
def Obligations.LengthRegistersAreWrittenOnlyByLengthBytes : Prop :=
  ∀ s t : State, step s = .next t →
    (OpensCall (present s) → t.r_idx = 0 ∧ t.r_acc = 0 ∧ t.r_raw = 0) ∧
    (¬ OpensCall (present s) → (s.r_ph ≠ .len ∨ ∀ b, (present s).command ≠ some (.byte b)) →
      t.r_idx = s.r_idx ∧ t.r_acc = s.r_acc ∧ t.r_raw = s.r_raw) ∧
    (∀ b, (present s).command = some (.byte b) → s.r_ph = .len →
      t.r_idx = if contField b = true ∧ s.r_idx.toNat < 3 then s.r_idx + 1 else s.r_idx)

/-- R22: `r_status` is written in the step that writes `r_ph <- DONE`, cleared by START and `rst`, written by no other step;
it is 0 while `r_ph` is not DONE, once it is so; code 7 is never written to it. -/
def Obligations.StatusIsWrittenOnlyWhereTheCallEnds : Prop :=
  ∀ s t : State, step s = .next t →
    (OpensCall (present s) → t.r_status = .ok) ∧
    (¬ OpensCall (present s) → t.r_status ≠ s.r_status → s.r_ph ≠ .done ∧ t.r_ph = .done) ∧
    ((s.r_ph ≠ .done → s.r_status = .ok) → t.r_ph ≠ .done → t.r_status = .ok) ∧
    (t.r_status = .valueTooLarge → s.r_status = .valueTooLarge)

/-- R145: in DONE the result is held, whatever BYTEs, ENDs and NOPs come, for any number of cycles; START or `rst` opens a
fresh call. -/
def Obligations.ResultStaysUntilStartOrReset : Prop :=
  ∀ s : State, s.r_ph = .done →
    (∀ cs : List Cycle, (∀ c ∈ cs, KeepsCall c) → Runs s cs { s with host := [] }) ∧
    (∀ t, OpensCall (present s) → step s = .next t → t.r_ph ≠ .done ∧ ports t = Ports.zero)

/-! ### The register invariant -/

/-- The invariant holds after reset. -/
def Obligations.ResetMeetsTheRegisterInvariant : Prop := RegInv State.reset

/-- Every step keeps the invariant, whatever the host drives. -/
def Obligations.EveryStepKeepsTheRegisterInvariant : Prop :=
  ∀ s t : State, RegInv s → step s = .next t → RegInv t

/-! ### The output ports -/

/-- R27: "Every header field reads 0 unless the call ended without error, and every error field reads 0 unless the call
ended with the error that owns it"; `done` and `status` (R144). -/
def Obligations.PortsAreGatedByTheOutcome : Prop :=
  ∀ s : State,
    (s.r_ph ≠ .done → ports s = Ports.zero) ∧
    (s.r_ph = .done → (ports s).done = true ∧ (ports s).status = s.r_status.code) ∧
    (s.r_ph = .done → s.r_status ≠ .ok →
      (ports s).packet_type = 0 ∧ (ports s).flags = 0 ∧ (ports s).pub_valid = false ∧ (ports s).dup = false ∧
        (ports s).qos = 0 ∧ (ports s).retain = false ∧ (ports s).rl_value = 0 ∧ (ports s).rl_count = 0 ∧
        (ports s).rl_raw = 0) ∧
    (s.r_status ≠ .invalidFlags → (ports s).err_expected = some 0) ∧
    (s.r_status ≠ .invalidFlags → s.r_status ≠ .invalidQos → (ports s).err_found = 0)

/-- R89: value 3 never appears on the `qos` port; `pub_valid` says a PUBLISH header was accepted; `rl_count` is 1 to 4 when
a length is present (R27); the table is read only where it is defined (R27, U1). -/
def Obligations.PortsStayInRangeOnRuns : Prop :=
  ∀ s : State, RegInv s →
    (ports s).qos ≠ 3 ∧
    ((ports s).pub_valid = true → (ports s).packet_type = 3 ∧ (ports s).status = 0) ∧
    (s.r_ph = .done → s.r_status = .ok → 1 ≤ (ports s).rl_count.toNat ∧ (ports s).rl_count.toNat ≤ 4) ∧
    (ports s).err_expected ≠ none

/-- R27, R129: on a finished call the ports give a result, and the whole output is a function of it: two finished PARSE
calls with equal results show equal ports, and so do two RLDEC calls. -/
def Obligations.PortsAndResultDetermineEachOther : Prop :=
  ∀ s s' : State, RegInv s → RegInv s' → s.r_ph = .done → s'.r_ph = .done → s.r_mode = s'.r_mode →
    (s.r_mode = .parse → readHeader (ports s) ≠ none ∧
      (readHeader (ports s) = readHeader (ports s') → ports s = ports s')) ∧
    (s.r_mode = .rldec → readLength (ports s) ≠ none ∧
      (readLength (ports s) = readLength (ports s') → ports s = ports s'))

/-! ### Level F: byte 0 -/

/-- R59, R60: the map from the 16 codes to the 16 variants is a bijection and looks at the high nibble only. -/
def Obligations.TypeDecodeIsABijection : Prop :=
  (∀ t : PacketType, PacketType.ofCode t.code = t) ∧ (∀ c : Nibble, (PacketType.ofCode c).code = c) ∧
    (∀ b b' : Byte, decodeType b = decodeType b' ↔ b.extractLsb' 4 4 = b'.extractLsb' 4 4)

/-- R62, R80, R82: the three cases of `validate_flags`; for the 14 types of the table it succeeds exactly on the table's
nibble and otherwise gives the table's value and the nibble. -/
def Obligations.FlagValidationIsExhaustive : Prop :=
  ∀ (t : PacketType) (n : Nibble),
    (t = .reserved → validateFlags t n = .error .reservedTypeUsed) ∧
    (t = .publish → validateFlags t n = .ok n) ∧
    (t ≠ .reserved → t ≠ .publish →
      ∃ e, e = (if t = .pubRel ∨ t = .subscribe ∨ t = .unsubscribe then 2 else 0) ∧
        reservedFlags t = some e ∧
        (n = e → validateFlags t n = .ok n) ∧
        (n ≠ e → validateFlags t n = .error (.invalidFlags (e.setWidth 8) (n.setWidth 8)))) ∧
    (reservedFlags t = none ↔ t = .reserved ∨ t = .publish)

/-- R85, R86: QoS 00, 01, 10, 11; the three PUBLISH fields. The last clause, that distinct nibbles give distinct flags, is
the spec's own inference: R86 marks it "[derived: the three fields partition the four bits]". -/
def Obligations.PublishFlagsAreTheirThreeFields : Prop :=
  decodeQos 0 = .zero ∧ decodeQos 1 = .one ∧ decodeQos 2 = .two ∧ decodeQos 3 = .invalid ∧
    (∀ f : Nibble, decodePublishFlags f =
      { dup := f.getLsbD 3, qos := decodeQos (f.extractLsb' 1 2), retain := f.getLsbD 0 }) ∧
    (∀ f f' : Nibble, decodePublishFlags f = decodePublishFlags f' → f = f')

/-- R55: of the 256 values of byte 0, 16 use the reserved type, 210 have wrong flags, 4 an invalid QoS and 26 are valid. -/
def Obligations.FirstByteClassesCount : Prop :=
  let outcome (n : Nat) : Status := match parse [BitVec.ofNat 8 n, 0] with
    | .ok _ => .ok
    | .error e => errorStatus e
  ((List.range 256).filter fun n => outcome n = .reservedTypeUsed).length = 16 ∧
    ((List.range 256).filter fun n => outcome n = .invalidFlags).length = 210 ∧
    ((List.range 256).filter fun n => outcome n = .invalidQos).length = 4 ∧
    ((List.range 256).filter fun n => outcome n = .ok).length = 26

/-! ### Level F: the remaining length -/

/-- R93, R94: when exactly the length decoder finds a field malformed, and when truncated. -/
def Obligations.MalformedAndTruncatedExactly : Prop :=
  ∀ bytes : Buffer,
    (decodeRemainingLength bytes = .error .malformedRemainingLength ↔
      4 ≤ bytes.length ∧ ∀ b ∈ bytes.take 4, b.getLsbD 7 = true) ∧
    (decodeRemainingLength bytes = .error .truncatedInput ↔
      bytes.length < 4 ∧ ∀ b ∈ bytes, b.getLsbD 7 = true)

/-- R97: `NonMinimalEncoding` exactly when the field ends properly after `n` bytes and `n > minlen(value)`. -/
def Obligations.NonMinimalExactly : Prop :=
  ∀ bytes : Buffer,
    decodeRemainingLength bytes = .error .nonMinimalEncoding ↔
      ∃ n, n ≤ 4 ∧ n ≤ bytes.length ∧ properlyEnded (bytes.take n) = true ∧
        minlen (spelledValue (bytes.take n)) < n

/-- R90, R91, R100: a success is exactly a properly ended, minimal field of at most four bytes, and the record is its value
(no sum overflows, R101), its byte count and its bytes. -/
def Obligations.LengthDecodesExactlyMinimalFields : Prop :=
  ∀ (bytes : Buffer) (r : RemainingLength),
    decodeRemainingLength bytes = .ok r ↔
      ∃ n, n ≤ 4 ∧ n ≤ bytes.length ∧ properlyEnded (bytes.take n) = true ∧
        minlen (spelledValue (bytes.take n)) = n ∧
        r.value.toNat = spelledValue (bytes.take n) ∧ r.encoded_byte_count = n ∧ r.raw_bytes = bytes.take n

/-- R98: the hardware's test for non-minimality agrees with the definition. -/
def Obligations.PaddingIsAZeroLastByte : Prop :=
  ∀ field : List Byte, properlyEnded field = true → field.length ≤ 4 →
    (minlen (spelledValue field) < field.length ↔ 2 ≤ field.length ∧ field.getLast? = some 0)

/-- R92: no byte after the field is read or influences the result. -/
def Obligations.BytesAfterTheFieldAreIgnored : Prop :=
  ∀ bytes more : Buffer, decodeRemainingLength bytes ≠ .error .truncatedInput →
    decodeRemainingLength (bytes ++ more) = decodeRemainingLength bytes

/-- R105: the round trip, over all 268,435,456 values. -/
def Obligations.EncodeThenDecodeIsIdentity : Prop :=
  ∀ v : Word, v.toNat ≤ 268435455 → ∃ r : RemainingLength,
    encodeRemainingLength v = .ok r ∧ r.value = v ∧ decodeRemainingLength r.raw_bytes = .ok r

/-- R105, other direction: an accepted field is the encoder's output for its value. -/
def Obligations.DecodeThenEncodeIsIdentity : Prop :=
  ∀ (bytes : Buffer) (r : RemainingLength), decodeRemainingLength bytes = .ok r →
    encodeRemainingLength r.value = .ok r

/-- R103, R106: the encoder emits the properly ended field of the value, in the minimal byte count. -/
def Obligations.EncoderEmitsTheMinimalField : Prop :=
  ∀ v : Word, v.toNat ≤ 268435455 → ∃ r : RemainingLength,
    encodeRemainingLength v = .ok r ∧ r.value = v ∧ properlyEnded r.raw_bytes = true ∧
      spelledValue r.raw_bytes = v.toNat ∧ r.encoded_byte_count = r.raw_bytes.length ∧
      r.encoded_byte_count =
        if v.toNat ≤ 127 then 1 else if v.toNat ≤ 16383 then 2 else if v.toNat ≤ 2097151 then 3 else 4

/-- R104: `ValueTooLarge` exactly above 268,435,455, equivalently when one of bits 31 to 28 is 1; no decode path gives it. -/
def Obligations.ValueTooLargeExactly : Prop :=
  ∀ v : Word,
    (encodeRemainingLength v = .error .valueTooLarge ↔ 268435455 < v.toNat) ∧
    (268435455 < v.toNat ↔ v.extractLsb' 28 4 ≠ 0) ∧
    (∀ bytes : Buffer, decodeRemainingLength bytes ≠ .error .valueTooLarge) ∧
    (∀ buf : Buffer, parse buf ≠ .error .valueTooLarge)

/-- R107: the ports of `RLENC` are the encoder's result laid out. -/
def Obligations.RlencIsTheEncoder : Prop :=
  ∀ v : Word,
    (∀ r, encodeRemainingLength v = .ok r →
      (rlenc v).enc_status = 0 ∧ (rlenc v).enc_count.toNat = r.encoded_byte_count ∧
      (∀ i, i < 4 → byteOf (rlenc v).enc_raw i = r.raw_bytes.getD i 0)) ∧
    (∀ e, encodeRemainingLength v = .error e → rlenc v = { enc_status := 7, enc_count := 0, enc_raw := 0 })

/-! ### Level F: `parse` -/

/-- R109 to R112, R142: which byte 0 fails which gate, whatever follows it; the earliest failing gate gives the error. -/
def Obligations.ByteZeroGatesComeFirst : Prop :=
  parse [] = .error .truncatedInput ∧
    ∀ (b : Byte) (rest : Buffer),
      (parse (b :: rest) = .error .reservedTypeUsed ↔ b.extractLsb' 4 4 = 0) ∧
      (∀ e f : Byte, parse (b :: rest) = .error (.invalidFlags e f) ↔
        ∃ rf, reservedFlags (decodeType b) = some rf ∧ rf ≠ b.extractLsb' 0 4 ∧
          e = rf.setWidth 8 ∧ f = (b.extractLsb' 0 4).setWidth 8) ∧
      (∀ q, parse (b :: rest) = .error (.invalidQos q) ↔ b ∈ ([0x36, 0x37, 0x3E, 0x3F] : List Byte) ∧ q = 3)

/-- R113, R114: a byte 0 that passes hands the rest to the length decoder, whose errors pass through unchanged. -/
def Obligations.AcceptedByteZeroHandsOverToTheLength : Prop :=
  ∀ (b : Byte) (rest : Buffer) (t : PacketType) (f : Nibble) (pf : Option PublishFlags),
    parseByte0 b = .ok (t, f, pf) →
      t = decodeType b ∧ f = b.extractLsb' 0 4 ∧
      parse (b :: rest) = (decodeRemainingLength rest).map fun rl =>
        { packet_type := t, flags := (b.extractLsb' 0 4).setWidth 8, publish_flags := pf, remaining_length := rl }

/-- R115, R88, R100: every header `parse` returns is well-formed; `publish_flags` is present iff the type is `Publish` and
is then the decoded nibble, otherwise the flags are the table's. -/
def Obligations.ParsedHeadersAreWellFormed : Prop :=
  ∀ (buf : Buffer) (h : FixedHeader), parse buf = .ok h →
    h.wellFormed = true ∧
    (h.packet_type = .publish → h.publish_flags = some (decodePublishFlags (h.flags.setWidth 4))) ∧
    (h.packet_type ≠ .publish → h.publish_flags = none ∧ reservedFlags h.packet_type = some (h.flags.setWidth 4))

/-- R116: a remaining length of 0 is accepted for every packet type but `Reserved`. -/
def Obligations.ZeroLengthIsNeverRejected : Prop :=
  ∀ (b : Byte) (rest : Buffer), (∃ x, parseByte0 b = .ok x) → ∃ h : FixedHeader,
    parse (b :: 0 :: rest) = .ok h ∧ h.packet_type = decodeType b ∧
      h.remaining_length = { value := 0, encoded_byte_count := 1, raw_bytes := [0] }

/-- R117: the result depends on the first `m(buf)` bytes, at most five; only `TruncatedInput` can be changed by more. -/
def Obligations.ResultDependsOnTheDecidingBytes : Prop :=
  ∀ buf : Buffer,
    parse buf = parse (buf.take 5) ∧
    (parse buf ≠ .error .truncatedInput →
      1 ≤ decidingLength buf ∧ decidingLength buf ≤ 5 ∧ decidingLength buf ≤ buf.length ∧
      parse (buf.take (decidingLength buf)) = parse buf ∧
      ∀ more, parse (buf ++ more) = parse buf) ∧
    (parse buf = .error .truncatedInput → buf.length ≤ 4)

/-! ### The two levels agree -/

/-- R130, PARSE with END: START PARSE, the bytes of any buffer with NOPs anywhere, END: the result on the ports is
`parse(buf)`, from any registers. -/
def Obligations.ParseCallShowsTheParseResult : Prop :=
  ∀ (s : State) (buf : Buffer) (start fin : Cycle) (cs : List Cycle),
    start.command = some (.start .parse) → Delivers buf cs → fin.command = some .endOfBuffer →
    ∃ t, Runs s (start :: (cs ++ [fin])) t ∧ (ports t).done = true ∧ readHeader (ports t) = some (parse buf)

/-- R130, RLDEC with END: the same for the standalone length decoder. -/
def Obligations.LengthCallShowsTheDecodeResult : Prop :=
  ∀ (s : State) (buf : Buffer) (start fin : Cycle) (cs : List Cycle),
    start.command = some (.start .rldec) → Delivers buf cs → fin.command = some .endOfBuffer →
    ∃ t, Runs s (start :: (cs ++ [fin])) t ∧ (ports t).done = true ∧
      readLength (ports t) = some (decodeRemainingLength buf)

/-- R130: without END, `done` is 1 exactly when the `m(buf)`-th byte has been delivered, and the result is then that of the
whole buffer. -/
def Obligations.ParseCallEndsAtTheDecidingByte : Prop :=
  ∀ (s : State) (buf : Buffer) (k : Nat) (start : Cycle) (cs : List Cycle),
    parse buf ≠ .error .truncatedInput →
    start.command = some (.start .parse) → Delivers (buf.take k) cs →
    ∃ t, Runs s (start :: cs) t ∧ ((ports t).done = true ↔ decidingLength buf ≤ k) ∧
      (decidingLength buf ≤ k → readHeader (ports t) = some (parse buf))

/-- R130 for RLDEC: `done` is 1 exactly when the field's last byte has been delivered. -/
def Obligations.LengthCallEndsAtTheDecidingByte : Prop :=
  ∀ (s : State) (buf : Buffer) (k : Nat) (start : Cycle) (cs : List Cycle),
    decodeRemainingLength buf ≠ .error .truncatedInput →
    start.command = some (.start .rldec) → Delivers (buf.take k) cs →
    ∃ t, Runs s (start :: cs) t ∧ ((ports t).done = true ↔ lengthBytesRead 4 buf ≤ k) ∧
      (lengthBytesRead 4 buf ≤ k → readLength (ports t) = some (decodeRemainingLength buf))

/-- R107: feeding `RLENC`'s bytes to `FHP` in RLDEC mode gives the value, the count and the bytes back. -/
def Obligations.EncoderOutputFedBackGivesTheValue : Prop :=
  ∀ (s : State) (v : Word) (start : Cycle) (cs : List Cycle),
    (rlenc v).enc_status = 0 → start.command = some (.start .rldec) →
    Delivers (lowBytes (rlenc v).enc_raw (rlenc v).enc_count.toNat) cs →
    ∃ t, Runs s (start :: cs) t ∧ (ports t).done = true ∧ (ports t).status = 0 ∧ (ports t).rl_value = v ∧
      (ports t).rl_count = (rlenc v).enc_count ∧ (ports t).rl_raw = (rlenc v).enc_raw

/-! ### Encoding -/

/-- Every instruction decodes from the bytes it encodes to, with every operand, whatever follows (R45, R47, R50). -/
def Obligations.DecodeOfEncodeIsTheInstruction : Prop :=
  ∀ (i : Instr) (rest : List Byte), i.wellFormed = true → decode i.format (encode i ++ rest) = .ok (i, rest)

/-- The other direction: every byte is the encoding of its header row and of its length row, and a command word encodes
back up to the fields its command ignores (R45, R47, R50, D7). -/
def Obligations.EncodeOfDecodeIsTheWord : Prop :=
  (∀ b : Byte, encode (decodeFh0 b) = [b] ∧ encode (decodeRlb b) = [b]) ∧
    ∀ w : CommandWord,
      (decodeCommand w).word &&& 0x600 = w &&& 0x600 ∧
      (w.extractLsb' 9 2 = 1 → (decodeCommand w).word = w &&& 0x6FF) ∧
      (w.extractLsb' 9 2 = 3 → (decodeCommand w).word = w &&& 0x700)

/-- R54, R55: no word of a format belongs to two rows of it, and every word the decoder reads belongs to the row of the
instruction it gives. -/
def Obligations.EveryWordBelongsToExactlyItsRow : Prop :=
  (∀ r ∈ opcodeTable, ∀ r' ∈ opcodeTable, r.format = r'.format → r ≠ r' →
    ∀ w : CommandWord, ¬ (r.accepts w = true ∧ r'.accepts w = true)) ∧
    (∀ b : Byte, ∃ r, opcodeTable[(decodeFh0 b).rowIndex]? = some r ∧ r.format = .fh0 ∧
      r.accepts (b.setWidth 11) = true) ∧
    (∀ b : Byte, ∃ r, opcodeTable[(decodeRlb b).rowIndex]? = some r ∧ r.format = .rlb ∧
      r.accepts (b.setWidth 11) = true) ∧
    (∀ w : CommandWord, ∃ r, opcodeTable[(decodeCommand w).rowIndex]? = some r ∧ r.format = .cmd ∧
      r.accepts w = true)

/-- Words written out from the encodings of R45, R47, R50 decode to the instructions they stand for. -/
def Obligations.SampleWordsDecode : Prop :=
  decode .fh0 [0b10000010] = .ok (.subscribe 0b0010, []) ∧
    decode .fh0 [0b00111011] = .ok (.publish 0b1011, []) ∧
    decode .rlb [0b11111111] = .ok (.rlc 0b1111111, []) ∧
    decode .rlb [0b00000010] = .ok (.rlt 0b0000010, []) ∧
    decode .cmd [0b10000010, 0b010] = .ok (.byte 0b10000010, []) ∧
    decode .cmd [0b00000000, 0b111] = .ok (.start .rldec, []) ∧
    decode .cmd [0b00000000, 0b1000] = .error .commandWordTooWide
end

