-- ==== Sys2Proof/Laws/State.lean ====
section
/-! SUPPORT. One lemma for each field and each update of the state: what the update leaves in the field. -/

namespace Sys2Proof.Machine

@[simp] theorem advance_r_ph (s : State) : (advance s).r_ph = s.r_ph := rfl
@[simp] theorem advance_r_mode (s : State) : (advance s).r_mode = s.r_mode := rfl
@[simp] theorem advance_r_type (s : State) : (advance s).r_type = s.r_type := rfl
@[simp] theorem advance_r_flags (s : State) : (advance s).r_flags = s.r_flags := rfl
@[simp] theorem advance_r_idx (s : State) : (advance s).r_idx = s.r_idx := rfl
@[simp] theorem advance_r_acc (s : State) : (advance s).r_acc = s.r_acc := rfl
@[simp] theorem advance_r_raw (s : State) : (advance s).r_raw = s.r_raw := rfl
@[simp] theorem advance_r_status (s : State) : (advance s).r_status = s.r_status := rfl
@[simp] theorem advance_host (s : State) : (advance s).host = s.host.tail := rfl

@[simp] theorem drivePins_r_ph (s : State) (c : Cycle) : (drivePins s c).r_ph = s.r_ph := rfl
@[simp] theorem drivePins_r_mode (s : State) (c : Cycle) : (drivePins s c).r_mode = s.r_mode := rfl
@[simp] theorem drivePins_r_type (s : State) (c : Cycle) : (drivePins s c).r_type = s.r_type := rfl
@[simp] theorem drivePins_r_flags (s : State) (c : Cycle) : (drivePins s c).r_flags = s.r_flags := rfl
@[simp] theorem drivePins_r_idx (s : State) (c : Cycle) : (drivePins s c).r_idx = s.r_idx := rfl
@[simp] theorem drivePins_r_acc (s : State) (c : Cycle) : (drivePins s c).r_acc = s.r_acc := rfl
@[simp] theorem drivePins_r_raw (s : State) (c : Cycle) : (drivePins s c).r_raw = s.r_raw := rfl
@[simp] theorem drivePins_r_status (s : State) (c : Cycle) : (drivePins s c).r_status = s.r_status := rfl
@[simp] theorem drivePins_host (s : State) (c : Cycle) : (drivePins s c).host = c :: s.host.tail := rfl

@[simp] theorem raise_r_ph (e : Status) (s : State) : (raise e s).r_ph = .done := rfl
@[simp] theorem raise_r_mode (e : Status) (s : State) : (raise e s).r_mode = s.r_mode := rfl
@[simp] theorem raise_r_type (e : Status) (s : State) : (raise e s).r_type = s.r_type := rfl
@[simp] theorem raise_r_flags (e : Status) (s : State) : (raise e s).r_flags = s.r_flags := rfl
@[simp] theorem raise_r_idx (e : Status) (s : State) : (raise e s).r_idx = s.r_idx := rfl
@[simp] theorem raise_r_acc (e : Status) (s : State) : (raise e s).r_acc = s.r_acc := rfl
@[simp] theorem raise_r_raw (e : Status) (s : State) : (raise e s).r_raw = s.r_raw := rfl
@[simp] theorem raise_r_status (e : Status) (s : State) : (raise e s).r_status = e := rfl
@[simp] theorem raise_host (e : Status) (s : State) : (raise e s).host = s.host := rfl

@[simp] theorem openCall_r_mode (m : Mode) (s : State) : (openCall m s).r_mode = m := rfl
@[simp] theorem openCall_r_type (m : Mode) (s : State) : (openCall m s).r_type = 0 := rfl
@[simp] theorem openCall_r_flags (m : Mode) (s : State) : (openCall m s).r_flags = 0 := rfl
@[simp] theorem openCall_r_idx (m : Mode) (s : State) : (openCall m s).r_idx = 0 := rfl
@[simp] theorem openCall_r_acc (m : Mode) (s : State) : (openCall m s).r_acc = 0 := rfl
@[simp] theorem openCall_r_raw (m : Mode) (s : State) : (openCall m s).r_raw = 0 := rfl
@[simp] theorem openCall_r_status (m : Mode) (s : State) : (openCall m s).r_status = .ok := rfl
@[simp] theorem openCall_host (m : Mode) (s : State) : (openCall m s).host = s.host := rfl

@[simp] theorem resetRegisters_r_ph (s : State) : (resetRegisters s).r_ph = .type := rfl
@[simp] theorem resetRegisters_r_mode (s : State) : (resetRegisters s).r_mode = .parse := rfl
@[simp] theorem resetRegisters_r_type (s : State) : (resetRegisters s).r_type = 0 := rfl
@[simp] theorem resetRegisters_r_flags (s : State) : (resetRegisters s).r_flags = 0 := rfl
@[simp] theorem resetRegisters_r_idx (s : State) : (resetRegisters s).r_idx = 0 := rfl
@[simp] theorem resetRegisters_r_acc (s : State) : (resetRegisters s).r_acc = 0 := rfl
@[simp] theorem resetRegisters_r_raw (s : State) : (resetRegisters s).r_raw = 0 := rfl
@[simp] theorem resetRegisters_r_status (s : State) : (resetRegisters s).r_status = .ok := rfl
@[simp] theorem resetRegisters_host (s : State) : (resetRegisters s).host = s.host := rfl

@[simp] theorem setHeader_r_ph (t f : Nibble) (s : State) : (setHeader t f s).r_ph = s.r_ph := rfl
@[simp] theorem setHeader_r_mode (t f : Nibble) (s : State) : (setHeader t f s).r_mode = s.r_mode := rfl
@[simp] theorem setHeader_r_type (t f : Nibble) (s : State) : (setHeader t f s).r_type = t := rfl
@[simp] theorem setHeader_r_flags (t f : Nibble) (s : State) : (setHeader t f s).r_flags = f := rfl
@[simp] theorem setHeader_r_idx (t f : Nibble) (s : State) : (setHeader t f s).r_idx = s.r_idx := rfl
@[simp] theorem setHeader_r_acc (t f : Nibble) (s : State) : (setHeader t f s).r_acc = s.r_acc := rfl
@[simp] theorem setHeader_r_raw (t f : Nibble) (s : State) : (setHeader t f s).r_raw = s.r_raw := rfl
@[simp] theorem setHeader_r_status (t f : Nibble) (s : State) : (setHeader t f s).r_status = s.r_status := rfl
@[simp] theorem setHeader_host (t f : Nibble) (s : State) : (setHeader t f s).host = s.host := rfl

@[simp] theorem expectLength_r_ph (s : State) : (expectLength s).r_ph = .len := rfl
@[simp] theorem expectLength_r_mode (s : State) : (expectLength s).r_mode = s.r_mode := rfl
@[simp] theorem expectLength_r_type (s : State) : (expectLength s).r_type = s.r_type := rfl
@[simp] theorem expectLength_r_flags (s : State) : (expectLength s).r_flags = s.r_flags := rfl
@[simp] theorem expectLength_r_idx (s : State) : (expectLength s).r_idx = s.r_idx := rfl
@[simp] theorem expectLength_r_acc (s : State) : (expectLength s).r_acc = s.r_acc := rfl
@[simp] theorem expectLength_r_raw (s : State) : (expectLength s).r_raw = s.r_raw := rfl
@[simp] theorem expectLength_r_status (s : State) : (expectLength s).r_status = s.r_status := rfl
@[simp] theorem expectLength_host (s : State) : (expectLength s).host = s.host := rfl

@[simp] theorem takeLengthByte_r_ph (b : Byte) (s : State) : (takeLengthByte b s).r_ph = s.r_ph := rfl
@[simp] theorem takeLengthByte_r_mode (b : Byte) (s : State) : (takeLengthByte b s).r_mode = s.r_mode := rfl
@[simp] theorem takeLengthByte_r_type (b : Byte) (s : State) : (takeLengthByte b s).r_type = s.r_type := rfl
@[simp] theorem takeLengthByte_r_flags (b : Byte) (s : State) : (takeLengthByte b s).r_flags = s.r_flags := rfl
@[simp] theorem takeLengthByte_r_idx (b : Byte) (s : State) : (takeLengthByte b s).r_idx = s.r_idx := rfl
@[simp] theorem takeLengthByte_r_acc (b : Byte) (s : State) : (takeLengthByte b s).r_acc = addDigit s.r_acc (digitField b) s.r_idx := rfl
@[simp] theorem takeLengthByte_r_raw (b : Byte) (s : State) : (takeLengthByte b s).r_raw = putByte s.r_raw b s.r_idx := rfl
@[simp] theorem takeLengthByte_r_status (b : Byte) (s : State) : (takeLengthByte b s).r_status = s.r_status := rfl
@[simp] theorem takeLengthByte_host (b : Byte) (s : State) : (takeLengthByte b s).host = s.host := rfl

@[simp] theorem nextLengthByte_r_ph (s : State) : (nextLengthByte s).r_ph = s.r_ph := rfl
@[simp] theorem nextLengthByte_r_mode (s : State) : (nextLengthByte s).r_mode = s.r_mode := rfl
@[simp] theorem nextLengthByte_r_type (s : State) : (nextLengthByte s).r_type = s.r_type := rfl
@[simp] theorem nextLengthByte_r_flags (s : State) : (nextLengthByte s).r_flags = s.r_flags := rfl
@[simp] theorem nextLengthByte_r_idx (s : State) : (nextLengthByte s).r_idx = s.r_idx + 1 := rfl
@[simp] theorem nextLengthByte_r_acc (s : State) : (nextLengthByte s).r_acc = s.r_acc := rfl
@[simp] theorem nextLengthByte_r_raw (s : State) : (nextLengthByte s).r_raw = s.r_raw := rfl
@[simp] theorem nextLengthByte_r_status (s : State) : (nextLengthByte s).r_status = s.r_status := rfl
@[simp] theorem nextLengthByte_host (s : State) : (nextLengthByte s).host = s.host := rfl

@[simp] theorem succeed_r_ph (s : State) : (succeed s).r_ph = .done := rfl
@[simp] theorem succeed_r_mode (s : State) : (succeed s).r_mode = s.r_mode := rfl
@[simp] theorem succeed_r_type (s : State) : (succeed s).r_type = s.r_type := rfl
@[simp] theorem succeed_r_flags (s : State) : (succeed s).r_flags = s.r_flags := rfl
@[simp] theorem succeed_r_idx (s : State) : (succeed s).r_idx = s.r_idx := rfl
@[simp] theorem succeed_r_acc (s : State) : (succeed s).r_acc = s.r_acc := rfl
@[simp] theorem succeed_r_raw (s : State) : (succeed s).r_raw = s.r_raw := rfl
@[simp] theorem succeed_r_status (s : State) : (succeed s).r_status = .ok := rfl
@[simp] theorem succeed_host (s : State) : (succeed s).host = s.host := rfl

@[simp] theorem openCall_parse_r_ph (s : State) : (openCall .parse s).r_ph = .type := rfl
@[simp] theorem openCall_rldec_r_ph (s : State) : (openCall .rldec s).r_ph = .len := rfl

@[simp] theorem present_drivePins (s : State) (c : Cycle) : present (drivePins s c) = c := rfl
@[simp] theorem advance_drivePins (s : State) (c : Cycle) : advance (drivePins s c) = advance s := rfl
theorem advance_of_no_pins {s : State} (h : s.host = []) : advance s = s := by
  cases s; simp_all [advance]

end Sys2Proof.Machine
end

