-- ==== Sys2Proof/Laws/Ops.lean ====
section
/-! SUPPORT. What each shared operation and each row can do, said once: equations by phase, and the cases of the byte
operations. -/

namespace Sys2Proof.Machine

/-! ### Rows by phase -/

theorem headerRow_of_type {g : State → State} {b : Byte} {s : State} (h : s.r_ph = .type) :
    headerRow g b s = .next (g s) := by simp [headerRow, h]

theorem headerRow_of_len {g : State → State} {b : Byte} {s : State} (h : s.r_ph = .len) :
    headerRow g b s = .next (byteInLen b s) := by simp [headerRow, h]

theorem headerRow_of_done {g : State → State} {b : Byte} {s : State} (h : s.r_ph = .done) :
    headerRow g b s = .next s := by simp [headerRow, h]

theorem lengthRow_of_type {g : State → State} {b : Byte} {s : State} (h : s.r_ph = .type) :
    lengthRow g b s = .next (byteInType b s) := by simp [lengthRow, h]

theorem lengthRow_of_len {g : State → State} {b : Byte} {s : State} (h : s.r_ph = .len) :
    lengthRow g b s = .next (g s) := by simp [lengthRow, h]

theorem lengthRow_of_done {g : State → State} {b : Byte} {s : State} (h : s.r_ph = .done) :
    lengthRow g b s = .next s := by simp [lengthRow, h]

/-! ### The words of the wire rows -/

theorem typeField_fh0Byte (c f : Nibble) : typeField (fh0Byte c f) = c := by revert c f; decide
theorem flagsField_fh0Byte (c f : Nibble) : flagsField (fh0Byte c f) = f := by revert c f; decide
theorem fh0Byte_fields (b : Byte) : fh0Byte (typeField b) (flagsField b) = b := by revert b; decide
theorem contField_rlbByte (c : BitVec 1) (d : Digit) : contField (rlbByte c d) = decide (c = 1) := by
  revert c d; decide
theorem digitField_rlbByte (c : BitVec 1) (d : Digit) : digitField (rlbByte c d) = d := by revert c d; decide
theorem rlbByte_fields (b : Byte) : rlbByte (if contField b then 1 else 0) (digitField b) = b := by revert b; decide

/-! ### The fields of a command word -/

theorem cmdField_commandWord (c : BitVec 2) (m : BitVec 1) (b : Byte) : cmdField (commandWord c m b) = c := by
  revert c m b; decide
theorem modeField_commandWord (c : BitVec 2) (m : BitVec 1) (b : Byte) : modeField (commandWord c m b) = m := by
  revert c m b; decide
theorem inByteField_commandWord (c : BitVec 2) (m : BitVec 1) (b : Byte) : inByteField (commandWord c m b) = b := by
  revert c m b; decide
theorem commandWord_fields (w : CommandWord) : commandWord (cmdField w) (modeField w) (inByteField w) = w := by
  revert w; decide
theorem word_eq_commandWord (c : Cycle) : c.word = commandWord c.cmd c.mode c.in_byte := rfl

/-! ### Byte 0 -/

/-- Everything a BYTE in phase TYPE can do: the header registers, and one of four endings. -/
theorem byteInType_cases (b : Byte) (s : State) :
    (decodeType b = .reserved ∧ byteInType b s =
        raise .reservedTypeUsed (setHeader (typeField b) (flagsField b) s)) ∨
      (decodeType b ≠ .reserved ∧ flagsBad (decodeType b) (flagsField b) = true ∧ byteInType b s =
        raise .invalidFlags (setHeader (typeField b) (flagsField b) s)) ∨
      (decodeType b ≠ .reserved ∧ flagsBad (decodeType b) (flagsField b) = false ∧
        qosBad (decodeType b) (flagsField b) = true ∧ byteInType b s =
        raise .invalidQos (setHeader (typeField b) (flagsField b) s)) ∨
      (decodeType b ≠ .reserved ∧ flagsBad (decodeType b) (flagsField b) = false ∧
        qosBad (decodeType b) (flagsField b) = false ∧ byteInType b s =
        expectLength (setHeader (typeField b) (flagsField b) s)) := by
  by_cases h1 : decodeType b = .reserved
  · exact .inl ⟨h1, by simp [byteInType, h1]⟩
  · cases h2 : flagsBad (decodeType b) (flagsField b)
    · cases h3 : qosBad (decodeType b) (flagsField b)
      · exact .inr (.inr (.inr ⟨h1, rfl, rfl, by simp [byteInType, h1, h2, h3]⟩))
      · exact .inr (.inr (.inl ⟨h1, rfl, rfl, by simp [byteInType, h1, h2, h3]⟩))
    · exact .inr (.inl ⟨h1, rfl, by simp [byteInType, h1, h2]⟩)

/-- The code of byte 0 is the code of its variant (R60). -/
theorem typeField_eq_code (b : Byte) : typeField b = (decodeType b).code := by revert b; decide

/-- The row the dispatch selects by the high nibble does what the three gates do. -/
theorem runHeaderByte_of_type (b : Byte) {s : State} (h : s.r_ph = .type) :
    runHeaderByte b s = .next (byteInType b s) := by
  have hc := typeField_eq_code b
  cases hp : decodeType b <;> rw [hp] at hc <;>
    simp [runHeaderByte, byteInType, hp, hc, execReserved, execConnect, execConnack, execPublish, execPuback,
      execPubrec, execPubrel, execPubcomp, execSubscribe, execSuback, execUnsubscribe, execUnsuback, execPingreq,
      execPingresp, execDisconnect, execAuth, headerRow_of_type h, fixedFlagsHeader, flagsBad, qosBad, reservedFlags,
      PacketType.code]

/-! ### Length bytes -/

/-- Everything a BYTE in phase LEN can do: `r_acc` and `r_raw` take the byte, and one of four endings (R102). -/
theorem byteInLen_cases (b : Byte) (s : State) :
    (contField b = true ∧ s.r_idx.toNat < 3 ∧ byteInLen b s =
        nextLengthByte (takeLengthByte b s)) ∨
      (contField b = true ∧ s.r_idx.toNat = 3 ∧ byteInLen b s =
        raise .malformedRemainingLength (takeLengthByte b s)) ∨
      (contField b = false ∧ 1 ≤ s.r_idx.toNat ∧ digitField b = 0 ∧ byteInLen b s =
        raise .nonMinimalEncoding (takeLengthByte b s)) ∨
      (contField b = false ∧ (s.r_idx.toNat = 0 ∨ digitField b ≠ 0) ∧ byteInLen b s =
        succeed (takeLengthByte b s)) := by
  have hlt : s.r_idx.toNat < 4 := s.r_idx.isLt
  cases hc : contField b
  · by_cases hz : 1 ≤ s.r_idx.toNat ∧ digitField b = 0
    · exact .inr (.inr (.inl ⟨rfl, hz.1, hz.2, by simp [byteInLen, hc, endLength, hz]⟩))
    · refine .inr (.inr (.inr ⟨rfl, ?_, by
        rw [byteInLen, hc, if_neg Bool.false_ne_true, endLength, takeLengthByte_r_idx, if_neg hz]⟩))
      by_cases h0 : s.r_idx.toNat = 0
      · exact .inl h0
      · exact .inr fun hd => hz ⟨by omega, hd⟩
  · by_cases h3 : s.r_idx.toNat < 3
    · exact .inl ⟨rfl, h3, by simp [byteInLen, hc, continueLength, h3]⟩
    · exact .inr (.inl ⟨rfl, by omega, by simp [byteInLen, hc, continueLength, h3]⟩)

/-- In phase LEN the row the dispatch selects does what R102 says. -/
theorem runLengthByte_of_len (b : Byte) {s : State} (h : s.r_ph = .len) :
    runLengthByte b s = .next (byteInLen b s) := by
  have hb := rlbByte_fields b
  cases hc : contField b
  · rw [hc, if_neg Bool.false_ne_true] at hb
    rw [runLengthByte, hc, if_neg Bool.false_ne_true, execRlt, lengthRow_of_len h, hb, byteInLen, hc,
      if_neg Bool.false_ne_true]
  · rw [hc, if_pos rfl] at hb
    rw [runLengthByte, hc, if_pos rfl, execRlc, lengthRow_of_len h, hb, byteInLen, hc, if_pos rfl]

/-- A BYTE command by phase (R124). -/
theorem execByte_of_type (b : Byte) {s : State} (h : s.r_ph = .type) : execByte b s = .next (byteInType b s) := by
  rw [execByte, h]; exact runHeaderByte_of_type b h

theorem execByte_of_len (b : Byte) {s : State} (h : s.r_ph = .len) : execByte b s = .next (byteInLen b s) := by
  rw [execByte, h]; exact runLengthByte_of_len b h

theorem execByte_of_done (b : Byte) {s : State} (h : s.r_ph = .done) : execByte b s = .next s := by
  simp [execByte, h]

end Sys2Proof.Machine
end

