-- ==== Sys2Proof/Laws/Exec.lean ====
section
/-! SUPPORT. What `exec` runs for each constructor, as an equation over the shared operations, and that it always answers. -/

namespace Sys2Proof.Machine

theorem exec_reserved (f : Nibble) (s : State) : exec (.reserved f) s =
    headerRow (fun s => raise .reservedTypeUsed (setHeader 0x0 f s)) (fh0Byte 0x0 f) s := rfl

theorem exec_publish (f : Nibble) (s : State) : exec (.publish f) s =
    headerRow (fun s => if qosField f = 3 then raise .invalidQos (setHeader 0x3 f s) else expectLength (setHeader 0x3 f s))
      (fh0Byte 0x3 f) s := rfl

theorem exec_connect (f : Nibble) (s : State) : exec (.connect f) s =
    headerRow (fixedFlagsHeader 0x1 0x0 f) (fh0Byte 0x1 f) s := rfl

theorem exec_connack (f : Nibble) (s : State) : exec (.connack f) s =
    headerRow (fixedFlagsHeader 0x2 0x0 f) (fh0Byte 0x2 f) s := rfl

theorem exec_puback (f : Nibble) (s : State) : exec (.puback f) s =
    headerRow (fixedFlagsHeader 0x4 0x0 f) (fh0Byte 0x4 f) s := rfl

theorem exec_pubrec (f : Nibble) (s : State) : exec (.pubrec f) s =
    headerRow (fixedFlagsHeader 0x5 0x0 f) (fh0Byte 0x5 f) s := rfl

theorem exec_pubrel (f : Nibble) (s : State) : exec (.pubrel f) s =
    headerRow (fixedFlagsHeader 0x6 0x2 f) (fh0Byte 0x6 f) s := rfl

theorem exec_pubcomp (f : Nibble) (s : State) : exec (.pubcomp f) s =
    headerRow (fixedFlagsHeader 0x7 0x0 f) (fh0Byte 0x7 f) s := rfl

theorem exec_subscribe (f : Nibble) (s : State) : exec (.subscribe f) s =
    headerRow (fixedFlagsHeader 0x8 0x2 f) (fh0Byte 0x8 f) s := rfl

theorem exec_suback (f : Nibble) (s : State) : exec (.suback f) s =
    headerRow (fixedFlagsHeader 0x9 0x0 f) (fh0Byte 0x9 f) s := rfl

theorem exec_unsubscribe (f : Nibble) (s : State) : exec (.unsubscribe f) s =
    headerRow (fixedFlagsHeader 0xA 0x2 f) (fh0Byte 0xA f) s := rfl

theorem exec_unsuback (f : Nibble) (s : State) : exec (.unsuback f) s =
    headerRow (fixedFlagsHeader 0xB 0x0 f) (fh0Byte 0xB f) s := rfl

theorem exec_pingreq (f : Nibble) (s : State) : exec (.pingreq f) s =
    headerRow (fixedFlagsHeader 0xC 0x0 f) (fh0Byte 0xC f) s := rfl

theorem exec_pingresp (f : Nibble) (s : State) : exec (.pingresp f) s =
    headerRow (fixedFlagsHeader 0xD 0x0 f) (fh0Byte 0xD f) s := rfl

theorem exec_disconnect (f : Nibble) (s : State) : exec (.disconnect f) s =
    headerRow (fixedFlagsHeader 0xE 0x0 f) (fh0Byte 0xE f) s := rfl

theorem exec_auth (f : Nibble) (s : State) : exec (.auth f) s =
    headerRow (fixedFlagsHeader 0xF 0x0 f) (fh0Byte 0xF f) s := rfl

theorem exec_rlc (d : Digit) (s : State) : exec (.rlc d) s =
    lengthRow (fun s => continueLength (takeLengthByte (rlbByte 1 d) s)) (rlbByte 1 d) s := rfl

theorem exec_rlt (d : Digit) (s : State) : exec (.rlt d) s =
    lengthRow (fun s => endLength d (takeLengthByte (rlbByte 0 d) s)) (rlbByte 0 d) s := rfl

theorem exec_byte_of_type (b : Byte) {s : State} (h : s.r_ph = .type) :
    exec (.byte b) s = .next (byteInType b s) := execByte_of_type b h

theorem exec_byte_of_len (b : Byte) {s : State} (h : s.r_ph = .len) :
    exec (.byte b) s = .next (byteInLen b s) := execByte_of_len b h

theorem exec_byte_of_done (b : Byte) {s : State} (h : s.r_ph = .done) : exec (.byte b) s = .next s :=
  execByte_of_done b h

end Sys2Proof.Machine
end

