-- ==== Sys2Proof/Laws/PerInstr.lean ====
section
/-! SUPPORT. Statements about every instruction as syntax, one lemma for each constructor. Family RowMatch: the word of an
instruction belongs to the row of `opcode_table.json` that stands at its place, in its format (R47, R50, R54). -/

namespace Sys2Proof.Laws.RowMatch

/-- The row at the instruction's place has its format, accepts its word, and a word of an 8-bit format fits 8 bits. -/
def Statement (i : Instr) : Prop :=
  ∃ r, opcodeTable[i.rowIndex]? = some r ∧ r.format = i.format ∧ r.accepts i.word = true ∧
    (i.format ≠ .cmd → i.word.toNat < 256)

theorem reserved (f : Nibble) : Statement (.reserved f) :=
  ⟨_, rfl, rfl, by revert f; decide, fun _ => by revert f; decide⟩

theorem connect (f : Nibble) : Statement (.connect f) :=
  ⟨_, rfl, rfl, by revert f; decide, fun _ => by revert f; decide⟩

theorem connack (f : Nibble) : Statement (.connack f) :=
  ⟨_, rfl, rfl, by revert f; decide, fun _ => by revert f; decide⟩

theorem publish (f : Nibble) : Statement (.publish f) :=
  ⟨_, rfl, rfl, by revert f; decide, fun _ => by revert f; decide⟩

theorem puback (f : Nibble) : Statement (.puback f) :=
  ⟨_, rfl, rfl, by revert f; decide, fun _ => by revert f; decide⟩

theorem pubrec (f : Nibble) : Statement (.pubrec f) :=
  ⟨_, rfl, rfl, by revert f; decide, fun _ => by revert f; decide⟩

theorem pubrel (f : Nibble) : Statement (.pubrel f) :=
  ⟨_, rfl, rfl, by revert f; decide, fun _ => by revert f; decide⟩

theorem pubcomp (f : Nibble) : Statement (.pubcomp f) :=
  ⟨_, rfl, rfl, by revert f; decide, fun _ => by revert f; decide⟩

theorem subscribe (f : Nibble) : Statement (.subscribe f) :=
  ⟨_, rfl, rfl, by revert f; decide, fun _ => by revert f; decide⟩

theorem suback (f : Nibble) : Statement (.suback f) :=
  ⟨_, rfl, rfl, by revert f; decide, fun _ => by revert f; decide⟩

theorem unsubscribe (f : Nibble) : Statement (.unsubscribe f) :=
  ⟨_, rfl, rfl, by revert f; decide, fun _ => by revert f; decide⟩

theorem unsuback (f : Nibble) : Statement (.unsuback f) :=
  ⟨_, rfl, rfl, by revert f; decide, fun _ => by revert f; decide⟩

theorem pingreq (f : Nibble) : Statement (.pingreq f) :=
  ⟨_, rfl, rfl, by revert f; decide, fun _ => by revert f; decide⟩

theorem pingresp (f : Nibble) : Statement (.pingresp f) :=
  ⟨_, rfl, rfl, by revert f; decide, fun _ => by revert f; decide⟩

theorem disconnect (f : Nibble) : Statement (.disconnect f) :=
  ⟨_, rfl, rfl, by revert f; decide, fun _ => by revert f; decide⟩

theorem auth (f : Nibble) : Statement (.auth f) :=
  ⟨_, rfl, rfl, by revert f; decide, fun _ => by revert f; decide⟩

theorem rlc (d : Digit) : Statement (.rlc d) :=
  ⟨_, rfl, rfl, by revert d; decide, fun _ => by revert d; decide⟩

theorem rlt (d : Digit) : Statement (.rlt d) :=
  ⟨_, rfl, rfl, by revert d; decide, fun _ => by revert d; decide⟩

theorem nop : Statement .nop := ⟨_, rfl, rfl, by decide, fun h => absurd rfl h⟩

theorem byte (b : Byte) : Statement (.byte b) :=
  ⟨_, rfl, rfl, by revert b; decide, fun h => absurd rfl h⟩

theorem endOfBuffer : Statement .endOfBuffer := ⟨_, rfl, rfl, by decide, fun h => absurd rfl h⟩

theorem start (m : Mode) : Statement (.start m) :=
  ⟨_, rfl, rfl, by cases m <;> decide, fun h => absurd rfl h⟩

end Sys2Proof.Laws.RowMatch
end

