-- ==== Sys2Proof/Laws/RemainingLength.lean ====
section
/-! SUPPORT. The length decoder of R90 as a scan over the bytes, one byte a time, and the arithmetic of its value: what the
loop computes is what the digits spell, and no 32-bit sum wraps (R101). -/

namespace Sys2Proof.Machine

/-! ### Bytes as numbers -/

theorem contField_eq (b : Byte) : contField b = decide (128 ≤ b.toNat) := by revert b; decide
theorem digitField_toNat (b : Byte) : (digitField b).toNat = b.toNat % 128 := by revert b; decide

/-! ### The value a field spells -/

theorem spelledValue_append_singleton (pre : List Byte) (b : Byte) :
    spelledValue (pre ++ [b]) = spelledValue pre + b.toNat % 128 * 128 ^ pre.length := by
  induction pre with
  | nil => simp [spelledValue]
  | cons a pre ih => simp only [List.cons_append, spelledValue, ih, List.length_cons]; ring

theorem spelledValue_lt (field : List Byte) : spelledValue field < 128 ^ field.length := by
  induction field with
  | nil => simp [spelledValue]
  | cons a field ih => simp only [spelledValue, List.length_cons, pow_succ]; omega

theorem properlyEnded_append_singleton (pre : List Byte) (b : Byte) (h : ∀ x ∈ pre, contField x = true) :
    properlyEnded (pre ++ [b]) = !contField b := by
  induction pre with
  | nil =>
    rw [contField_eq, List.nil_append, properlyEnded, ← decide_not]; exact decide_eq_decide.mpr (by omega)
  | cons a pre ih =>
    have ha := h a (by simp)
    have hpre := ih fun x hx => h x (List.mem_cons_of_mem _ hx)
    rw [contField_eq, decide_eq_true_eq] at ha
    cases pre with
    | nil => simpa [properlyEnded, ha] using hpre
    | cons c pre => simpa [properlyEnded, ha] using hpre

/-! ### The scan -/

/-- The outcome of a field that ends properly: rejected if padded (R97), else the record of R100. -/
def endOfField (field : List Byte) : Result RemainingLength :=
  if minlen (spelledValue field) < field.length then .error .nonMinimalEncoding
  else .ok { value := BitVec.ofNat 32 (spelledValue field), encoded_byte_count := field.length, raw_bytes := field }

/-- R90 as a scan: `pre` has been read, every byte of it with its continuation bit set; `left` more may be read. -/
def scanLength : (left : Nat) → (pre : List Byte) → Buffer → Result RemainingLength
  | 0, _, _ => .error .malformedRemainingLength
  | _ + 1, _, [] => .error .truncatedInput
  | left + 1, pre, b :: rest =>
    if contField b then scanLength left (pre ++ [b]) rest else endOfField (pre ++ [b])

/-- The sum of R90 at byte `i` is the number the field so far spells: nothing wraps (R101). -/
theorem value_step {pre : List Byte} {v : Word} (b : Byte) (h : v.toNat = spelledValue pre) (hl : pre.length ≤ 3) :
    (v + (digitField b).setWidth 32 * BitVec.ofNat 32 (Config.rlBase ^ pre.length)).toNat =
      spelledValue (pre ++ [b]) := by
  have hp := spelledValue_lt pre
  have hd := digitField_toNat b
  have hm : b.toNat % 128 < 128 := Nat.mod_lt _ (by decide)
  rw [spelledValue_append_singleton, BitVec.toNat_add, BitVec.toNat_mul, BitVec.toNat_ofNat, BitVec.toNat_setWidth, hd, h]
  generalize pre.length = n at *
  interval_cases n <;> simp only [Config.rlBase] at * <;> omega

/-- One iteration of R90 on a byte that is there. -/
theorem decodeLengthFrom_cons (pre tl : List Byte) (b : Byte) (v : Word) (left : Nat) (hv : v.toNat = spelledValue pre)
    (hl : pre.length ≤ 3) : decodeLengthFrom (pre ++ b :: tl) pre.length v left =
      if contField b then
        match left with
        | 0 => .error .malformedRemainingLength
        | left + 1 => decodeLengthFrom (pre ++ b :: tl) (pre.length + 1)
            (v + (digitField b).setWidth 32 * BitVec.ofNat 32 (Config.rlBase ^ pre.length)) left
      else endOfField (pre ++ [b]) := by
  have hs := value_step b hv hl
  have hr : memRead (pre ++ b :: tl) pre.length = some b := by simp [memRead]
  have ht : (pre ++ b :: tl).take (pre.length + 1) = pre ++ [b] := by
    rw [show pre ++ b :: tl = (pre ++ [b]) ++ tl by simp, List.take_left' (by simp)]
  have hn : (v + (digitField b).setWidth 32 * BitVec.ofNat 32 (Config.rlBase ^ pre.length)) =
      BitVec.ofNat 32 (spelledValue (pre ++ [b])) := by
    rw [← hs, BitVec.ofNat_toNat, BitVec.setWidth_eq]
  rw [decodeLengthFrom]
  simp only [hr, ht, hs, endOfField, List.length_append, List.length_singleton]
  cases left <;> rw [hn]

theorem decodeLengthFrom_eq_scan (left : Nat) : ∀ (pre tl : List Byte) (v : Word), v.toNat = spelledValue pre →
    pre.length + left = 3 → decodeLengthFrom (pre ++ tl) pre.length v left = scanLength (left + 1) pre tl := by
  induction left with
  | zero =>
    intro pre tl v hv hl
    cases tl with
    | nil => simp [decodeLengthFrom, memRead, scanLength]
    | cons b tl => rw [decodeLengthFrom_cons pre tl b v 0 hv (by omega), scanLength]; rfl
  | succ left ih =>
    intro pre tl v hv hl
    cases tl with
    | nil => simp [decodeLengthFrom, memRead, scanLength]
    | cons b tl =>
      have hrec := ih (pre ++ [b]) tl _ (value_step b hv (by omega)) (by simp; omega)
      rw [decodeLengthFrom_cons pre tl b v (left + 1) hv (by omega), scanLength]
      simp only [List.length_append, List.length_singleton, List.append_assoc, List.cons_append,
        List.nil_append] at hrec
      rw [← hrec]

/-- `decode_remaining_length` is the scan of at most four bytes. -/
theorem decodeRemainingLength_eq_scan (bytes : Buffer) :
    decodeRemainingLength bytes = scanLength Config.rlMaxBytes [] bytes :=
  decodeLengthFrom_eq_scan 3 [] bytes 0 rfl rfl

end Sys2Proof.Machine
end

