-- ==== Sys2Proof/Laws/Step.lean ====
section
/-! SUPPORT. What one step can do, said once (R128): every proof about a step cites these instead of unfolding it. -/

namespace Sys2Proof.Machine

theorem command_of_rst {c : Cycle} (h : c.rst = true) : c.command = none := by simp [Cycle.command, h]

theorem command_eq_none {c : Cycle} : c.command = none ↔ c.rst = true := by
  cases h : c.rst <;> simp [Cycle.command, h]

theorem rst_of_command {c : Cycle} {i : Instr} (h : c.command = some i) : c.rst = false := by
  cases hr : c.rst
  · rfl
  · rw [command_of_rst hr] at h; cases h

/-- What a cycle with `rst` = 0 carries, from its pins (R50). -/
theorem command_of_pins {c : Cycle} (h : c.rst = false) :
    c.command = some (match c.cmd.toNat with
      | 0 => .nop
      | 1 => .byte c.in_byte
      | 2 => .endOfBuffer
      | _ => .start (Mode.ofPin c.mode)) := by
  have four : ∀ x : BitVec 2, x = 0 ∨ x = 1 ∨ x = 2 ∨ x = 3 := by decide
  rcases four c.cmd with hx | hx | hx | hx <;>
    simp [Cycle.command, h, decodeCommand, word_eq_commandWord, cmdField_commandWord, modeField_commandWord,
      inByteField_commandWord, hx]

theorem step_of_reset {s : State} (h : (present s).rst = true) : step s = .next (resetRegisters (advance s)) := by
  simp [step, command_of_rst h]

theorem step_of_command {s : State} {i : Instr} (h : (present s).command = some i) : step s = exec i (advance s) := by
  simp [step, h]

/-- The command of a cycle is one of the four host commands. -/
theorem command_cases (c : Cycle) :
    c.command = none ∨ c.command = some .nop ∨ (∃ b, c.command = some (.byte b)) ∨
      c.command = some .endOfBuffer ∨ ∃ m, c.command = some (.start m) := by
  by_cases hr : c.rst = true
  · exact .inl (command_of_rst hr)
  · have hc : c.command = some (decodeCommand c.word) := by simp [Cycle.command, hr]
    right
    simp only [hc, decodeCommand, Option.some.injEq]
    split <;> simp

/-- Everything one step can do: reset, NOP, START, END in an open or an ended call, BYTE in each phase. -/
theorem step_cases (s : State) :
    ((present s).command = none ∧ step s = .next (resetRegisters (advance s))) ∨
      ((present s).command = some .nop ∧ step s = .next (advance s)) ∨
      (∃ m, (present s).command = some (.start m) ∧ step s = .next (openCall m (advance s))) ∨
      ((present s).command = some .endOfBuffer ∧ s.r_ph ≠ .done ∧
        step s = .next (raise .truncatedInput (advance s))) ∨
      ((present s).command = some .endOfBuffer ∧ s.r_ph = .done ∧ step s = .next (advance s)) ∨
      (∃ b, (present s).command = some (.byte b) ∧ s.r_ph = .type ∧ step s = .next (byteInType b (advance s))) ∨
      (∃ b, (present s).command = some (.byte b) ∧ s.r_ph = .len ∧ step s = .next (byteInLen b (advance s))) ∨
      (∃ b, (present s).command = some (.byte b) ∧ s.r_ph = .done ∧ step s = .next (advance s)) := by
  rcases command_cases (present s) with h | h | ⟨b, h⟩ | h | ⟨m, h⟩
  · exact .inl ⟨h, step_of_reset (command_eq_none.mp h)⟩
  · exact .inr (.inl ⟨h, step_of_command h⟩)
  · have hs := step_of_command h
    have hx : exec (.byte b) (advance s) = execByte b (advance s) := rfl
    rw [hx] at hs
    cases hp : s.r_ph
    · exact .inr (.inr (.inr (.inr (.inr (.inl
        ⟨b, h, rfl, hs.trans (execByte_of_type b (by simpa using hp))⟩)))))
    · exact .inr (.inr (.inr (.inr (.inr (.inr (.inl
        ⟨b, h, rfl, hs.trans (execByte_of_len b (by simpa using hp))⟩))))))
    · exact .inr (.inr (.inr (.inr (.inr (.inr (.inr
        ⟨b, h, rfl, hs.trans (execByte_of_done b (by simpa using hp))⟩))))))
  · have hs := step_of_command h
    have hx : exec .endOfBuffer (advance s) = execEnd (advance s) := rfl
    rw [hx, execEnd] at hs
    cases hp : s.r_ph
    · exact .inr (.inr (.inr (.inl ⟨h, by simp, by simpa [hp] using hs⟩)))
    · exact .inr (.inr (.inr (.inl ⟨h, by simp, by simpa [hp] using hs⟩)))
    · exact .inr (.inr (.inr (.inr (.inl ⟨h, rfl, by simpa [hp] using hs⟩))))
  · exact .inr (.inr (.inl ⟨m, h, step_of_command h⟩))

end Sys2Proof.Machine
end

