-- ==== Sys2Proof/Tests/Slice0.lean ====
section
/-! SUPPORT. The model's own tests. Expected results come from the spec: the encodings of R45, R47, R50 written out bit by
bit, and the vectors of `95_test_vectors.md` (cited as V and the section). After them, for each statement that has
hypotheses, concrete states and operands that meet them all. -/

namespace Sys2Proof.Tests

open Sys2Proof.Machine

/-- The next state, where there is one. -/
def answer : Host.Outcome State Fault Refusal → Option State
  | .next t => some t
  | .fault _ => none
  | .refused _ => none

/-- The phase, the header registers and the outcome after an instruction. -/
def header (i : Instr) (s : State) : Option (Phase × Nibble × Nibble × Status) :=
  (answer (exec i s)).map fun t => (t.r_ph, t.r_type, t.r_flags, t.r_status)

/-- The phase, the length registers and the outcome after an instruction. -/
def length (i : Instr) (s : State) : Option (Phase × BitVec 2 × Word × Word × Status) :=
  (answer (exec i s)).map fun t => (t.r_ph, t.r_idx, t.r_acc, t.r_raw, t.r_status)

/-- A PARSE call of a CONNECT that has consumed `n` length bytes, each 0xFF (V8, trace T1). -/
def inLen (n : BitVec 2) (acc raw : Word) : State :=
  { State.reset with r_ph := .len, r_type := 1, r_idx := n, r_acc := acc, r_raw := raw }

/-- An RLDEC call just opened (V8, trace T3). -/
def inRldec : State := { State.reset with r_ph := .len, r_mode := .rldec }

/-- The end of trace T1: CONNECT, 268,435,455. -/
def finished : State :=
  { State.reset with r_ph := .done, r_type := 1, r_idx := 3, r_acc := 0xFFFFFFF, r_raw := 0x7FFFFFFF }

/-- The registers of `s` with one cycle on the pins. -/
def with1 (s : State) (c : Cycle) : State := { s with host := [c] }

/-! ### Ill-formed terms are refused

An ill-formed `Instr` cannot be written down: its operands are typed at the width of their fields (U8). -/

/-- 5 in one byte. -/
def five : RemainingLength := { value := 5, encoded_byte_count := 1, raw_bytes := [5] }

/-- PINGREQ with length 5 (V7). -/
def pingreq5 : FixedHeader :=
  { packet_type := .pingReq, flags := 0, publish_flags := none, remaining_length := five }

theorem test_wellFormed_length : five.wellFormed = true := by decide
theorem test_illFormed_value :
    RemainingLength.valueInRange { value := 268435456, encoded_byte_count := 4, raw_bytes := [0, 0, 0, 0] } = false := by decide
theorem test_illFormed_count_zero :
    RemainingLength.countInRange { value := 0, encoded_byte_count := 0, raw_bytes := [] } = false := by decide
theorem test_illFormed_count_five :
    RemainingLength.countInRange { value := 0, encoded_byte_count := 5, raw_bytes := [0, 0, 0, 0, 0] } = false := by decide
theorem test_illFormed_count_differs :
    RemainingLength.countInRange { value := 5, encoded_byte_count := 2, raw_bytes := [5] } = false := by decide
theorem test_illFormed_raw_value :
    RemainingLength.rawSpellsValue { value := 6, encoded_byte_count := 1, raw_bytes := [5] } = false := by decide
theorem test_illFormed_raw_unended :
    RemainingLength.rawSpellsValue { value := 5, encoded_byte_count := 1, raw_bytes := [0x85] } = false := by decide
theorem test_illFormed_padded :
    RemainingLength.minimal { value := 0, encoded_byte_count := 2, raw_bytes := [0x80, 0x00] } = false := by decide
theorem test_wellFormed_header : pingreq5.wellFormed = true := by decide
theorem test_illFormed_type : FixedHeader.typeAllowed { pingreq5 with packet_type := .reserved } = false := by decide
theorem test_illFormed_flags : FixedHeader.flagsInNibble { pingreq5 with flags := 0x10 } = false := by decide
theorem test_illFormed_publish_absent :
    FixedHeader.publishFlagsIffPublish { pingreq5 with packet_type := .publish } = false := by decide
theorem test_illFormed_publish_present :
    FixedHeader.publishFlagsIffPublish
      { pingreq5 with publish_flags := some { dup := false, qos := .zero, retain := false } } = false := by decide
theorem test_illFormed_qos :
    FixedHeader.qosNotInvalid
      { pingreq5 with publish_flags := some { dup := false, qos := .invalid, retain := false } } = false := by decide

/-! ### Decoding: words written out from the encodings -/

/-- RESERVED, `0000ffff` (R45). -/
theorem test_decode_reserved : decodeFh0 0b00000000 = .reserved 0b0000 := by decide
/-- CONNECT, `0001ffff` (R45). -/
theorem test_decode_connect : decodeFh0 0b00010001 = .connect 0b0001 := by decide
/-- CONNACK, `0010ffff` (R45). -/
theorem test_decode_connack : decodeFh0 0b00101000 = .connack 0b1000 := by decide
/-- PUBLISH, `0011ffff` (R45). -/
theorem test_decode_publish : decodeFh0 0b00111011 = .publish 0b1011 := by decide
/-- PUBACK, `0100ffff` (R45). -/
theorem test_decode_puback : decodeFh0 0b01000100 = .puback 0b0100 := by decide
/-- PUBREC, `0101ffff` (R45). -/
theorem test_decode_pubrec : decodeFh0 0b01010010 = .pubrec 0b0010 := by decide
/-- PUBREL, `0110ffff` (R45). -/
theorem test_decode_pubrel : decodeFh0 0b01100010 = .pubrel 0b0010 := by decide
/-- PUBCOMP, `0111ffff` (R45). -/
theorem test_decode_pubcomp : decodeFh0 0b01111111 = .pubcomp 0b1111 := by decide
/-- SUBSCRIBE, `1000ffff` (R45). -/
theorem test_decode_subscribe : decodeFh0 0b10000010 = .subscribe 0b0010 := by decide
/-- SUBACK, `1001ffff` (R45). -/
theorem test_decode_suback : decodeFh0 0b10010110 = .suback 0b0110 := by decide
/-- UNSUBSCRIBE, `1010ffff` (R45). -/
theorem test_decode_unsubscribe : decodeFh0 0b10101010 = .unsubscribe 0b1010 := by decide
/-- UNSUBACK, `1011ffff` (R45). -/
theorem test_decode_unsuback : decodeFh0 0b10110011 = .unsuback 0b0011 := by decide
/-- PINGREQ, `1100ffff` (R45). -/
theorem test_decode_pingreq : decodeFh0 0b11001100 = .pingreq 0b1100 := by decide
/-- PINGRESP, `1101ffff` (R45). -/
theorem test_decode_pingresp : decodeFh0 0b11010101 = .pingresp 0b0101 := by decide
/-- DISCONNECT, `1110ffff` (R45). -/
theorem test_decode_disconnect : decodeFh0 0b11101001 = .disconnect 0b1001 := by decide
/-- AUTH, `1111ffff` (R45). -/
theorem test_decode_auth : decodeFh0 0b11111110 = .auth 0b1110 := by decide
/-- RLC, `1ddddddd` (R47). -/
theorem test_decode_rlc : decodeRlb 0b10000101 = .rlc 0b0000101 := by decide
/-- RLT, `0ddddddd` (R47). -/
theorem test_decode_rlt : decodeRlb 0b01000001 = .rlt 0b1000001 := by decide
/-- NOP, `00xxxxxxxxx` (R50): the other fields are ignored. -/
theorem test_decode_nop : decodeCommand 0b00110100101 = .nop := by decide
/-- BYTE, `01xbbbbbbbb` (R50). -/
theorem test_decode_byte : decodeCommand 0b01110100101 = .byte 0b10100101 := by decide
/-- END, `10xxxxxxxxx` (R50). -/
theorem test_decode_endOfBuffer : decodeCommand 0b10011111111 = .endOfBuffer := by decide
/-- START PARSE, `11mxxxxxxxx` with `m` = 0 (R50, R26). -/
theorem test_decode_start_parse : decodeCommand 0b11011111111 = .start .parse := by decide
/-- START RLDEC, `m` = 1. -/
theorem test_decode_start_rldec : decodeCommand 0b11100000000 = .start .rldec := by decide
/-- A command word in two bytes, the low one first (log entry 9), and the bytes after it. -/
theorem test_decode_bytes : decode .cmd [0b10000010, 0b010, 7] = .ok (.byte 0b10000010, [7]) := by rfl
/-- Bits above bit 10 are refused by name; so are bytes that are missing. -/
theorem test_decode_rejects : decode .cmd [0, 0b1000] = .error .commandWordTooWide ∧
    decode .cmd [0] = .error .commandWordCut ∧ decode .fh0 [] = .error (.noBytes .fh0) := ⟨rfl, rfl, rfl⟩
/-- Every instruction's word belongs to its row of the opcode table (R54). -/
theorem test_rowMatch_byte (b : Byte) : Laws.RowMatch.Statement (.byte b) := Laws.RowMatch.byte b

/-! ### One step of each instruction -/

/-- `parse([0x0F]) = Err(ReservedTypeUsed)` (V7). -/
theorem test_reserved : header (.reserved 0xF) State.reset = some (.done, 0, 0xF, .reservedTypeUsed) := by decide
/-- CONNECT: `0x0` only (V3). -/
theorem test_connect_accepts : header (.connect 0x0) State.reset = some (.len, 1, 0x0, .ok) := by decide
theorem test_connect_rejects : header (.connect 0x1) State.reset = some (.done, 1, 0x1, .invalidFlags) := by
  decide
/-- CONNACK: `0x0` only (V3). -/
theorem test_connack_accepts : header (.connack 0x0) State.reset = some (.len, 2, 0x0, .ok) := by decide
theorem test_connack_rejects : header (.connack 0x1) State.reset = some (.done, 2, 0x1, .invalidFlags) := by
  decide
/-- `0x3D` is accepted, QoS Two (V7). -/
theorem test_publish_accepts : header (.publish 0xD) State.reset = some (.len, 3, 0xD, .ok) := by decide
/-- `0x36` is `InvalidQos` (V7). -/
theorem test_publish_rejects : header (.publish 0x6) State.reset = some (.done, 3, 0x6, .invalidQos) := by decide
/-- PUBACK: `0x0` only (V3). -/
theorem test_puback_accepts : header (.puback 0x0) State.reset = some (.len, 4, 0x0, .ok) := by decide
theorem test_puback_rejects : header (.puback 0x1) State.reset = some (.done, 4, 0x1, .invalidFlags) := by
  decide
/-- PUBREC: `0x0` only (V3). -/
theorem test_pubrec_accepts : header (.pubrec 0x0) State.reset = some (.len, 5, 0x0, .ok) := by decide
theorem test_pubrec_rejects : header (.pubrec 0x1) State.reset = some (.done, 5, 0x1, .invalidFlags) := by
  decide
/-- PUBREL: `0x2` only (V3). -/
theorem test_pubrel_accepts : header (.pubrel 0x2) State.reset = some (.len, 6, 0x2, .ok) := by decide
theorem test_pubrel_rejects : header (.pubrel 0x3) State.reset = some (.done, 6, 0x3, .invalidFlags) := by
  decide
/-- PUBCOMP: `0x0` only (V3). -/
theorem test_pubcomp_accepts : header (.pubcomp 0x0) State.reset = some (.len, 7, 0x0, .ok) := by decide
theorem test_pubcomp_rejects : header (.pubcomp 0x1) State.reset = some (.done, 7, 0x1, .invalidFlags) := by
  decide
/-- SUBSCRIBE: `0x2` only (V3). -/
theorem test_subscribe_accepts : header (.subscribe 0x2) State.reset = some (.len, 8, 0x2, .ok) := by decide
theorem test_subscribe_rejects : header (.subscribe 0x0) State.reset = some (.done, 8, 0x0, .invalidFlags) := by
  decide
/-- SUBACK: `0x0` only (V3). -/
theorem test_suback_accepts : header (.suback 0x0) State.reset = some (.len, 9, 0x0, .ok) := by decide
theorem test_suback_rejects : header (.suback 0x1) State.reset = some (.done, 9, 0x1, .invalidFlags) := by
  decide
/-- UNSUBSCRIBE: `0x2` only (V3). -/
theorem test_unsubscribe_accepts : header (.unsubscribe 0x2) State.reset = some (.len, 10, 0x2, .ok) := by decide
theorem test_unsubscribe_rejects : header (.unsubscribe 0xA) State.reset = some (.done, 10, 0xA, .invalidFlags) := by
  decide
/-- UNSUBACK: `0x0` only (V3). -/
theorem test_unsuback_accepts : header (.unsuback 0x0) State.reset = some (.len, 11, 0x0, .ok) := by decide
theorem test_unsuback_rejects : header (.unsuback 0x1) State.reset = some (.done, 11, 0x1, .invalidFlags) := by
  decide
/-- PINGREQ: `0x0` only (V3). -/
theorem test_pingreq_accepts : header (.pingreq 0x0) State.reset = some (.len, 12, 0x0, .ok) := by decide
theorem test_pingreq_rejects : header (.pingreq 0x1) State.reset = some (.done, 12, 0x1, .invalidFlags) := by
  decide
/-- PINGRESP: `0x0` only (V3). -/
theorem test_pingresp_accepts : header (.pingresp 0x0) State.reset = some (.len, 13, 0x0, .ok) := by decide
theorem test_pingresp_rejects : header (.pingresp 0x1) State.reset = some (.done, 13, 0x1, .invalidFlags) := by
  decide
/-- DISCONNECT: `0x0` only (V3). -/
theorem test_disconnect_accepts : header (.disconnect 0x0) State.reset = some (.len, 14, 0x0, .ok) := by decide
theorem test_disconnect_rejects : header (.disconnect 0x1) State.reset = some (.done, 14, 0x1, .invalidFlags) := by
  decide
/-- AUTH: `0x0` only (V3). -/
theorem test_auth_accepts : header (.auth 0x0) State.reset = some (.len, 15, 0x0, .ok) := by decide
theorem test_auth_rejects : header (.auth 0x2) State.reset = some (.done, 15, 0x2, .invalidFlags) := by
  decide
/-- Trace T1, the third length byte (V8). -/
theorem test_rlc_goes_on :
    length (.rlc 0x7F) (inLen 2 0x3FFF 0xFFFF) = some (.len, 3, 0x1FFFFF, 0xFFFFFF, .ok) := by decide
/-- `[0xFF, 0xFF, 0xFF, 0x80]` is malformed (V5). -/
theorem test_rlc_malformed :
    length (.rlc 0) (inLen 3 0x1FFFFF 0xFFFFFF) = some (.done, 3, 0x1FFFFF, 0x80FFFFFF, .malformedRemainingLength) := by
  decide
/-- Trace T1, the fourth length byte (V8). -/
theorem test_rlt_ends :
    length (.rlt 0x7F) (inLen 3 0x1FFFFF 0xFFFFFF) = some (.done, 3, 0xFFFFFFF, 0x7FFFFFFF, .ok) := by decide
/-- `[0xFF, 0x00]` is non-minimal (V5). -/
theorem test_rlt_nonMinimal :
    length (.rlt 0) (inLen 1 0x7F 0xFF) = some (.done, 1, 0x7F, 0xFF, .nonMinimalEncoding) := by decide
/-- NOP in the middle of trace T3 (V8). -/
theorem test_nop : answer (exec .nop (inLen 1 0x7F 0xFF)) = some (inLen 1 0x7F 0xFF) := by decide
/-- BYTE 0x21, trace T2 (V8). -/
theorem test_byte_header : header (.byte 0x21) State.reset = some (.done, 2, 1, .invalidFlags) := by decide
/-- BYTE 0xAA after the end of trace T1 (V8). -/
theorem test_byte_done : answer (exec (.byte 0xAA) finished) = some finished := by decide
/-- END on an open call, trace T4 (V8). -/
theorem test_end_open : header .endOfBuffer State.reset = some (.done, 0, 0, .truncatedInput) := by decide
/-- END in DONE, trace T2 (V8). -/
theorem test_end_done : answer (exec .endOfBuffer finished) = some finished := by decide
/-- START RLDEC, trace T3 (V8); it overwrites a finished call. -/
theorem test_start_rldec : answer (exec (.start .rldec) finished) = some inRldec := by decide
/-- START PARSE, trace T4 (V8). -/
theorem test_start_parse : answer (exec (.start .parse) finished) = some State.reset := by decide
/-- A cycle with `rst` = 1 and a BYTE on the other pins: the byte is lost (R153). -/
theorem test_step_reset :
    answer (step (with1 finished { cycleOf (.byte 0x10) with rst := true })) = some State.reset := by decide
/-- The ports at the end of trace T1 (V8). -/
theorem test_ports : ports finished =
    { Ports.zero with done := true, packet_type := 1, rl_value := 268435455, rl_count := 4, rl_raw := 0x7FFFFFFF } := by
  decide
/-- `0x21`: `err_expected` = 0, `err_found` = 1 (V8, trace T2); `0x60`: `err_expected` = 2, `err_found` = 0 (V7). -/
theorem test_error_ports :
    (answer (exec (.byte 0x21) State.reset)).map ports =
      some { Ports.zero with done := true, status := 3, err_found := 1 } ∧
    (answer (exec (.byte 0x60) State.reset)).map ports =
      some { Ports.zero with done := true, status := 3, err_expected := some 2 } := by decide
/-- `RLENC` at 321 and at 268,435,456 (V6). -/
theorem test_rlenc : rlenc 321 = { enc_status := 0, enc_count := 2, enc_raw := 0x2C1 } ∧
    rlenc 268435456 = { enc_status := 7, enc_count := 0, enc_raw := 0 } := by decide
/-- Scenario C (V1). -/
theorem test_parse_scenario_C : parse [0x82, 0xFF, 0x7F] =
    .ok { packet_type := .subscribe, flags := 2, publish_flags := none,
          remaining_length := { value := 16383, encoded_byte_count := 2, raw_bytes := [0xFF, 0x7F] } } := by rfl
/-- Scenario F (V1): a byte 0 that is accepted, then a malformed length. -/
theorem test_parse_scenario_F : parse [0x33, 0xFF, 0xFF, 0xFF, 0xFF] = .error .malformedRemainingLength := by rfl
/-- 321 in two bytes, and 0 in two bytes (V5). -/
theorem test_decode_length :
    decodeRemainingLength [0xC1, 0x02] = .ok { value := 321, encoded_byte_count := 2, raw_bytes := [0xC1, 0x02] } ∧
    decodeRemainingLength [0x80, 0x00] = .error .nonMinimalEncoding := ⟨rfl, rfl⟩
/-- 16,384 in three bytes (V6). -/
theorem test_encode_length : encodeRemainingLength 16384 =
    .ok { value := 16384, encoded_byte_count := 3, raw_bytes := [0x80, 0x80, 0x01] } := by rfl
/-- The host's question about a table word: BYTE 0x82 in 11 bits, SUBSCRIBE in 8. -/
theorem test_table_words : decodeTableWord 16 0x282 = some (.byte 0x82) ∧ decodeTableWord 8 0x82 = some (.subscribe 2) ∧
    answer (step (State.reset.withFetchWord 8 0x82)) = answer (exec (.subscribe 2) State.reset) := by decide

/-! ### Witnesses: concrete states and operands that meet the hypotheses of each statement -/

/-- A state whose present cycle carries a command. -/
def given (s : State) (i : Instr) : State := with1 s (cycleOf i)

/-- The registers after one byte 0xFF of an RLDEC call; they hold it packed. -/
def oneByteIn : State := { inRldec with r_idx := 1, r_acc := 0x7F, r_raw := 0xFF }

/-- A PUBLISH of length 2, ended (V1, scenario A). -/
def publishDone : State :=
  { State.reset with r_ph := .done, r_type := 3, r_acc := 2, r_raw := 2 }

/-- An RLDEC call of `[0x02]`, ended. -/
def rldecDone : State := { inRldec with r_ph := .done, r_acc := 2, r_raw := 2 }

/-- A PARSE call of `[0x60]`, ended with `InvalidFlags`. -/
def flagsDone : State := { State.reset with r_ph := .done, r_type := 6, r_status := .invalidFlags }

/-- The invariant of a state in phase LEN, one length byte in. -/
theorem witness_RegInv_oneByteIn : RegInv oneByteIn where
  typeFresh := by decide
  statusOpen := by decide
  rldecHeader := by decide
  lenSoFar := by decide
  accBound := by decide
  accepted := fun h => absurd h (by decide)
  okRecord := by decide
  gateErrors := by decide
  lengthErrors := by decide
  neverTooLarge := by decide

theorem witness_ResetCycleLoadsTheResetValues :
    (present (with1 finished resetCycle)).rst = true ∧
      answer (step (with1 finished resetCycle)) = some State.reset := by decide

theorem witness_StartOpensAFreshCall :
    answer (exec (.start .rldec) finished) = some inRldec ∧ answer (exec (.start .parse) inRldec) = some State.reset := by
  decide

theorem witness_EndReportsTruncationOfAnOpenCall :
    State.reset.r_ph ≠ .done ∧ inRldec.r_ph ≠ .done ∧ finished.r_ph = .done := by decide

theorem witness_ByteInTypePhaseRunsTheThreeGates :
    State.reset.r_ph = .type ∧ (0x0F : Byte).extractLsb' 4 4 = 0 ∧
      reservedFlags (PacketType.ofCode ((0x11 : Byte).extractLsb' 4 4)) ≠ some ((0x11 : Byte).extractLsb' 0 4) ∧
      (0x36 : Byte).extractLsb' 1 2 = 3 ∧ (0x34 : Byte).extractLsb' 1 2 = 2 := by decide

/-- Each case of the length byte, at the indexes where the cases meet. -/
theorem witness_ByteInLenPhaseAddsOneDigit :
    (inLen 2 0x3FFF 0xFFFF).r_ph = .len ∧
      ((0xFF : Byte).getLsbD 7 = true ∧ (inLen 2 0x3FFF 0xFFFF).r_idx.toNat < 3) ∧
      ((0x80 : Byte).getLsbD 7 = true ∧ (inLen 3 0x1FFFFF 0xFFFFFF).r_idx.toNat = 3) ∧
      ((0x00 : Byte).getLsbD 7 = false ∧ 1 ≤ (inLen 1 0x7F 0xFF).r_idx.toNat ∧ (0x00 : Byte).extractLsb' 0 7 = 0) ∧
      ((0x00 : Byte).getLsbD 7 = false ∧ inRldec.r_idx.toNat = 0) ∧
      ((0x01 : Byte).getLsbD 7 = false ∧ (0x01 : Byte).extractLsb' 0 7 ≠ 0) ∧
      RegInv oneByteIn ∧ oneByteIn.r_ph = .len :=
  ⟨by decide, by decide, by decide, by decide, by decide, by decide, witness_RegInv_oneByteIn, rfl⟩

theorem witness_ByteInDonePhaseIsIgnored : finished.r_ph = .done := by decide

/-- A row of each list, with a nibble that is accepted and one that is not. -/
theorem witness_ZeroFlagsTypesAcceptOnlyZeroFlags :
    (∃ r ∈ zeroFlagsRows, r.code = 1 ∧ r.row 0 = .connect 0 ∧ r.row 15 = .connect 15) ∧ zeroFlagsRows.length = 11 ∧
      State.reset.r_ph = .type := ⟨⟨_, List.mem_cons_self, rfl, rfl, rfl⟩, rfl, rfl⟩

theorem witness_TwoFlagsTypesAcceptOnlyFlagsTwo :
    (∃ r ∈ twoFlagsRows, r.code = 6 ∧ r.row 2 = .pubrel 2 ∧ r.row 3 = .pubrel 3) ∧ twoFlagsRows.length = 3 ∧
      State.reset.r_ph = .type := ⟨⟨_, List.mem_cons_self, rfl, rfl, rfl⟩, rfl, rfl⟩

/-- The two lists and PUBLISH and RESERVED are all sixteen packet types. -/
theorem witness_rows_are_all_types :
    ((zeroFlagsRows ++ twoFlagsRows).map (·.code)).Nodup ∧
      ∀ t : PacketType, t ≠ .reserved → t ≠ .publish →
        t.code ∈ (zeroFlagsRows ++ twoFlagsRows).map (·.code) := by
  refine ⟨by decide, fun t => ?_⟩
  cases t <;> decide

theorem witness_ReservedTypeIsAlwaysRejected : State.reset.r_ph = .type := by decide

theorem witness_PublishRejectsOnlyQosThree :
    State.reset.r_ph = .type ∧ (0x6 : Nibble).extractLsb' 1 2 = 3 ∧ (0xD : Nibble).extractLsb' 1 2 ≠ 3 := by decide

theorem witness_ContinuationByteGoesOnOrIsMalformed :
    inRldec.r_ph = .len ∧ (inLen 2 0x3FFF 0xFFFF).r_idx.toNat < 3 ∧ (inLen 3 0x1FFFFF 0xFFFFFF).r_idx.toNat = 3 := by
  decide

theorem witness_TerminalByteEndsTheCall : inRldec.r_ph = .len ∧ (inLen 1 0x7F 0xFF).r_ph = .len := by decide

theorem witness_WireRowActsAsItsByteInEveryPhase :
    (Instr.rlc 5).format ≠ .cmd ∧ encode (.rlc 5) = [0x85] ∧ (Instr.publish 9).format ≠ .cmd ∧
      encode (.publish 9) = [0x39] := by decide

theorem witness_StepRunsTheDecodedCommand : (present (given State.reset (.byte 0x10))).rst = false := by decide

theorem witness_StepRunsTheWireRowOfThePhase :
    (present (given State.reset (.byte 0x10))).command = some (.byte 0x10) ∧ (given State.reset (.byte 0x10)).r_ph = .type ∧
      (given inRldec (.byte 0x10)).r_ph = .len ∧ (given finished (.byte 0x10)).r_ph = .done := by decide

theorem witness_TableWordRunsAsItsDecodedInstruction :
    decodeTableWord 11 0x300 = some (.byte 0) ∧ decodeTableWord 8 0xFF = some (.auth 15) ∧ State.reset.r_ph = .type := by
  decide

/-- A NOP whose other two pins are not 0. -/
def noisyNop : Cycle := { Cycle.idle with mode := 1, in_byte := 7 }

/-- A START PARSE whose byte is not 0. -/
def noisyStart : Cycle := { cycleOf (.start .parse) with in_byte := 7 }

theorem witness_UnreadPinsHaveNoEffect :
    (noisyNop.rst = Cycle.idle.rst ∧ noisyNop.cmd = Cycle.idle.cmd ∧ noisyNop.cmd ≠ 3 ∧ noisyNop.cmd ≠ 1 ∧
      noisyNop ≠ Cycle.idle) ∧
    noisyStart.rst = false ∧ noisyStart.cmd = 3 ∧ noisyStart.mode = (cycleOf (.start .parse)).mode ∧
      noisyStart ≠ cycleOf (.start .parse) := by decide

theorem present_given (s : State) (i : Instr) : present (given s i) = cycleOf i := rfl

theorem given_start_opens (s : State) (m : Mode) : OpensCall (present (given s (.start m))) :=
  .inr ⟨m, by rw [present_given]; cases m <;> decide⟩

theorem witness_NothingOfAnEarlierCallSurvives :
    (given finished (.start .parse)).host = (given inRldec (.start .parse)).host ∧
      OpensCall (present (given finished (.start .parse))) := ⟨rfl, given_start_opens _ _⟩

/-- Every clause of the phase table, a byte that is accepted and one that is not among them. -/
theorem witness_PhaseTransitionsAreTheTable :
    (present (with1 finished resetCycle)).rst = true ∧
      (present (given finished (.start .parse))).command = some (.start .parse) ∧
      (present (given finished (.start .rldec))).command = some (.start .rldec) ∧
      (present (given finished .nop)).command = some .nop ∧
      (present (given finished .endOfBuffer)).command = some .endOfBuffer ∧
      (present (given oneByteIn (.byte 0x80))).command = some (.byte 0x80) ∧ oneByteIn.r_ph = .len ∧
      contField 0x80 = true ∧ oneByteIn.r_idx.toNat < 3 := by decide

theorem witness_ModeIsWrittenOnlyByStartAndReset :
    answer (step (given finished (.start .rldec))) = some inRldec ∧
      answer (step (given inRldec .nop)) = some inRldec ∧
      (present (given finished (.start .rldec))).command = some (.start .rldec) := by decide

/-- A NOP opens no call. -/
theorem nop_opens_no_call (s : State) : ¬ OpensCall (present (given s .nop)) := by
  rw [present_given]
  rintro (h | ⟨m, h⟩)
  · exact absurd h (by decide)
  · cases m <;> exact absurd h (by decide)

/-- Nor does a BYTE. -/
theorem byte_opens_no_call (s : State) : ¬ OpensCall (present (given s (.byte 0x2A))) := by
  rw [present_given]
  rintro (h | ⟨m, h⟩)
  · exact absurd h (by decide)
  · cases m <;> exact absurd h (by decide)

theorem witness_HeaderRegistersAreWrittenOnlyByByteZero :
    (answer (step (given State.reset (.byte 0x21)))).isSome = true ∧
      (present (given State.reset (.byte 0x21))).command = some (.byte 0x21) ∧ State.reset.r_ph = .type ∧
      ¬ OpensCall (present (given finished (.byte 0x2A))) ∧ finished.r_ph ≠ .type ∧
      OpensCall (present (given finished (.start .parse))) ∧
      (RegInv oneByteIn ∧ oneByteIn.r_mode = .rldec ∧ ¬ OpensCall (present (given oneByteIn (.byte 0x2A)))) :=
  ⟨by decide, by decide, rfl, byte_opens_no_call _, by decide, given_start_opens _ _, witness_RegInv_oneByteIn, rfl,
    byte_opens_no_call _⟩

theorem witness_LengthRegistersAreWrittenOnlyByLengthBytes :
    (answer (step (given oneByteIn (.byte 0x80)))).isSome = true ∧
      (present (given oneByteIn (.byte 0x80))).command = some (.byte 0x80) ∧ oneByteIn.r_ph = .len ∧
      ¬ OpensCall (present (given State.reset (.byte 0x2A))) ∧ State.reset.r_ph ≠ .len ∧
      OpensCall (present (given finished (.start .parse))) :=
  ⟨by decide, by decide, rfl, byte_opens_no_call _, by decide, given_start_opens _ _⟩

/-- A NOP in an open call, and an END that writes the outcome. -/
theorem witness_StatusIsWrittenOnlyWhereTheCallEnds :
    answer (step (given inRldec .nop)) = some inRldec ∧ inRldec.r_ph ≠ .done ∧ inRldec.r_status = .ok ∧
      ¬ OpensCall (present (given inRldec .nop)) ∧
      (answer (step (given inRldec .endOfBuffer))).map (·.r_status) = some .truncatedInput :=
  ⟨by decide, by decide, rfl, nop_opens_no_call _, by decide⟩

theorem witness_ResultStaysUntilStartOrReset :
    finished.r_ph = .done ∧ (∀ c ∈ [cycleOf (.byte 9), cycleOf .endOfBuffer, cycleOf .nop], KeepsCall c) ∧
      OpensCall (present (given finished (.start .rldec))) := by
  refine ⟨rfl, ?_, given_start_opens _ _⟩
  simp only [List.mem_cons, List.not_mem_nil, or_false]
  rintro c (rfl | rfl | rfl)
  · exact .inr (.inl ⟨9, by decide⟩)
  · exact .inr (.inr (by decide))
  · exact .inl (by decide)

theorem witness_EveryStepKeepsTheRegisterInvariant :
    RegInv oneByteIn ∧ answer (step oneByteIn) = some oneByteIn := ⟨witness_RegInv_oneByteIn, by decide⟩

theorem witness_RegInv_publishDone : RegInv publishDone where
  typeFresh := by decide
  statusOpen := by decide
  rldecHeader := by decide
  lenSoFar := by decide
  accBound := by decide
  accepted := fun _ _ => ⟨by decide, by decide, by decide⟩
  okRecord := by decide
  gateErrors := by decide
  lengthErrors := by decide
  neverTooLarge := by decide

theorem witness_RegInv_rldecDone : RegInv rldecDone where
  typeFresh := by decide
  statusOpen := by decide
  rldecHeader := by decide
  lenSoFar := by decide
  accBound := by decide
  accepted := fun h => absurd h (by decide)
  okRecord := by decide
  gateErrors := by decide
  lengthErrors := by decide
  neverTooLarge := by decide

theorem witness_RegInv_flagsDone : RegInv flagsDone where
  typeFresh := by decide
  statusOpen := by decide
  rldecHeader := by decide
  lenSoFar := by decide
  accBound := by decide
  accepted := fun _ h => absurd h (by decide)
  okRecord := by decide
  gateErrors := by decide
  lengthErrors := by decide
  neverTooLarge := by decide

/-- Open, ended without error, ended with each kind of error port. -/
theorem witness_PortsAreGatedByTheOutcome :
    State.reset.r_ph ≠ .done ∧ publishDone.r_ph = .done ∧ publishDone.r_status ≠ .invalidFlags ∧
      flagsDone.r_ph = .done ∧ flagsDone.r_status ≠ .ok := by decide

theorem witness_PortsStayInRangeOnRuns :
    RegInv publishDone ∧ (ports publishDone).pub_valid = true ∧ publishDone.r_ph = .done ∧ publishDone.r_status = .ok :=
  ⟨witness_RegInv_publishDone, by decide, rfl, rfl⟩

/-- Two states that differ (in the pins) and show the same result, in each mode. -/
theorem witness_PortsAndResultDetermineEachOther :
    RegInv publishDone ∧ publishDone.r_ph = .done ∧ publishDone.r_mode = .parse ∧
      readHeader (ports publishDone) = readHeader (ports (given publishDone .nop)) ∧
      RegInv rldecDone ∧ rldecDone.r_ph = .done ∧ rldecDone.r_mode = .rldec ∧
      readLength (ports rldecDone) = readLength (ports (given rldecDone .nop)) :=
  ⟨witness_RegInv_publishDone, rfl, rfl, rfl, witness_RegInv_rldecDone, rfl, rfl, rfl⟩

theorem witness_FlagValidationIsExhaustive :
    PacketType.pubRel ≠ .reserved ∧ PacketType.pubRel ≠ .publish ∧ PacketType.auth ≠ .reserved ∧
      PacketType.auth ≠ .publish := by decide

theorem witness_MalformedAndTruncatedExactly :
    decodeRemainingLength [0x80, 0x80, 0x80, 0x80] = .error .malformedRemainingLength ∧
      decodeRemainingLength [0x80, 0x80, 0x80] = .error .truncatedInput ∧
      decodeRemainingLength [] = .error .truncatedInput := ⟨rfl, rfl, rfl⟩

theorem witness_NonMinimalExactly :
    properlyEnded (([0x80, 0x80, 0x80, 0x00] : Buffer).take 4) = true ∧
      minlen (spelledValue (([0x80, 0x80, 0x80, 0x00] : Buffer).take 4)) < 4 := by decide

theorem witness_LengthDecodesExactlyMinimalFields :
    decodeRemainingLength [0xFF, 0xFF, 0xFF, 0x7F, 0xAA] =
      .ok { value := 268435455, encoded_byte_count := 4, raw_bytes := [0xFF, 0xFF, 0xFF, 0x7F] } := by rfl

theorem witness_PaddingIsAZeroLastByte :
    properlyEnded [0x80, 0x80, 0x80, 0x00] = true ∧ ([0x80, 0x80, 0x80, 0x00] : List Byte).length ≤ 4 := by decide

theorem witness_BytesAfterTheFieldAreIgnored :
    decodeRemainingLength [0x7F, 0x80] ≠ .error .truncatedInput := nofun

theorem witness_EncodeThenDecodeIsIdentity : (268435455 : Word).toNat ≤ 268435455 := by decide

theorem witness_DecodeThenEncodeIsIdentity :
    decodeRemainingLength [0x80, 0x01] = .ok { value := 128, encoded_byte_count := 2, raw_bytes := [0x80, 0x01] } := by
  rfl

/-- The ends of each range of the byte count. -/
theorem witness_EncoderEmitsTheMinimalField :
    (127 : Word).toNat ≤ 127 ∧ ¬ (128 : Word).toNat ≤ 127 ∧ (16383 : Word).toNat ≤ 16383 ∧
      ¬ (2097152 : Word).toNat ≤ 2097151 ∧ (268435455 : Word).toNat ≤ 268435455 := by decide

theorem witness_ValueTooLargeExactly :
    encodeRemainingLength 268435456 = .error .valueTooLarge ∧ 268435455 < (268435456 : Word).toNat ∧
      ¬ 268435455 < (268435455 : Word).toNat := ⟨rfl, by decide, by decide⟩

theorem witness_RlencIsTheEncoder :
    encodeRemainingLength 128 = .ok { value := 128, encoded_byte_count := 2, raw_bytes := [0x80, 0x01] } ∧
      encodeRemainingLength 0xFFFFFFFF = .error .valueTooLarge := ⟨rfl, rfl⟩

/-- A byte 0 of each error of gates 2 to 4. -/
theorem witness_ByteZeroGatesComeFirst :
    parse [0x0F] = .error .reservedTypeUsed ∧ parse [0xAF, 0xFF] = .error (.invalidFlags 2 15) ∧
      parse [0x3E, 0x80, 0x00] = .error (.invalidQos 3) := ⟨rfl, rfl, rfl⟩

theorem witness_AcceptedByteZeroHandsOverToTheLength :
    parseByte0 0x82 = .ok (.subscribe, 2, none) ∧
      parseByte0 0x3D = .ok (.publish, 0xD, some { dup := true, qos := .two, retain := true }) := ⟨rfl, rfl⟩

theorem witness_ParsedHeadersAreWellFormed :
    (∃ h, parse [0x3D, 0x00] = .ok h ∧ h.packet_type = .publish) ∧
      ∃ h, parse [0x82, 0xFF, 0x7F] = .ok h ∧ h.packet_type ≠ .publish :=
  ⟨⟨_, rfl, rfl⟩, _, rfl, nofun⟩

theorem witness_ZeroLengthIsNeverRejected : ∃ x, parseByte0 0x10 = .ok x := ⟨_, rfl⟩

theorem witness_ResultDependsOnTheDecidingBytes :
    parse [0x10, 0xFF, 0xFF, 0xFF, 0x7F, 0xAA] ≠ .error .truncatedInput ∧
      decidingLength [0x10, 0xFF, 0xFF, 0xFF, 0x7F, 0xAA] = 5 ∧ decidingLength [0x36, 0x80] = 1 ∧
      parse [0x10, 0x80, 0x80, 0x80] = .error .truncatedInput := ⟨nofun, rfl, rfl, rfl⟩

/-- Two bytes delivered with a NOP between them. -/
theorem witness_delivers :
    Delivers [0x30, 0x02] [cycleOf (.byte 0x30), cycleOf .nop, cycleOf (.byte 0x02)] :=
  .byte (by decide) (.nop (by decide) (.byte (by decide) .nil))

theorem witness_ParseCallShowsTheParseResult :
    (cycleOf (.start .parse)).command = some (.start .parse) ∧
      Delivers [0x30, 0x02] [cycleOf (.byte 0x30), cycleOf .nop, cycleOf (.byte 0x02)] ∧
      (cycleOf .endOfBuffer).command = some .endOfBuffer := ⟨by decide, witness_delivers, by decide⟩

theorem witness_LengthCallShowsTheDecodeResult :
    (cycleOf (.start .rldec)).command = some (.start .rldec) ∧
      Delivers [0x30, 0x02] [cycleOf (.byte 0x30), cycleOf .nop, cycleOf (.byte 0x02)] ∧
      (cycleOf .endOfBuffer).command = some .endOfBuffer := ⟨by decide, witness_delivers, by decide⟩

/-- Delivered whole (the deciding byte is in it) and one byte short (it is not). -/
theorem witness_ParseCallEndsAtTheDecidingByte :
    parse [0x30, 0x02, 0x55] ≠ .error .truncatedInput ∧ decidingLength [0x30, 0x02, 0x55] = 2 ∧
      Delivers (([0x30, 0x02, 0x55] : Buffer).take 2) [cycleOf (.byte 0x30), cycleOf .nop, cycleOf (.byte 0x02)] ∧
      Delivers (([0x30, 0x02, 0x55] : Buffer).take 1) [cycleOf (.byte 0x30)] :=
  ⟨nofun, rfl, witness_delivers, .byte (by decide) .nil⟩

theorem witness_LengthCallEndsAtTheDecidingByte :
    decodeRemainingLength [0x80, 0x01, 0x55] ≠ .error .truncatedInput ∧ lengthBytesRead 4 [0x80, 0x01, 0x55] = 2 ∧
      Delivers (([0x80, 0x01, 0x55] : Buffer).take 2) [cycleOf (.byte 0x80), cycleOf (.byte 0x01)] :=
  ⟨nofun, rfl, .byte (by decide) (.byte (by decide) .nil)⟩

theorem witness_EncoderOutputFedBackGivesTheValue :
    (rlenc 128).enc_status = 0 ∧ lowBytes (rlenc 128).enc_raw (rlenc 128).enc_count.toNat = [0x80, 0x01] ∧
      Delivers [0x80, 0x01] [cycleOf (.byte 0x80), cycleOf (.byte 0x01)] :=
  ⟨by decide, by decide, .byte (by decide) (.byte (by decide) .nil)⟩

theorem witness_DecodeOfEncodeIsTheInstruction :
    (Instr.publish 0xF).wellFormed = true ∧ (Instr.byte 0xFF).wellFormed = true ∧ (Instr.start .rldec).wellFormed = true := by
  decide

theorem witness_EncodeOfDecodeIsTheWord :
    (0x3FF : CommandWord).extractLsb' 9 2 = 1 ∧ (0x7FF : CommandWord).extractLsb' 9 2 = 3 := by decide

theorem witness_EveryWordBelongsToExactlyItsRow :
    (⟨.fh0, 0x30, 0xF0⟩ : OpcodeRow) ∈ opcodeTable ∧ (⟨.fh0, 0x00, 0xF0⟩ : OpcodeRow) ∈ opcodeTable ∧
      (⟨.fh0, 0x30, 0xF0⟩ : OpcodeRow).format = (⟨.fh0, 0x00, 0xF0⟩ : OpcodeRow).format ∧
      (⟨.fh0, 0x30, 0xF0⟩ : OpcodeRow) ≠ ⟨.fh0, 0x00, 0xF0⟩ := by decide

end Sys2Proof.Tests
end

section
/-! PROOFS. Which registers a step writes (`10_state.md`): what the byte operations leave in the registers they do not
decide by a case, the two kinds of cycle, those that open a call and those that do not, and from these R19 and R20. -/

namespace Sys2Proof.Machine

/-! ### The byte operations -/

/-- Byte 0 goes to the header registers whatever its gates say (R125); mode and length registers stand. -/
@[simp] theorem byteInType_writes_header (b : Byte) (s : State) :
    (byteInType b s).r_mode = s.r_mode ∧ (byteInType b s).r_type = typeField b ∧
      (byteInType b s).r_flags = flagsField b ∧ (byteInType b s).r_idx = s.r_idx ∧
      (byteInType b s).r_acc = s.r_acc ∧ (byteInType b s).r_raw = s.r_raw ∧ (byteInType b s).host = s.host := by
  rcases byteInType_cases b s with ⟨-, h⟩ | ⟨-, -, h⟩ | ⟨-, -, -, h⟩ | ⟨-, -, -, h⟩ <;> simp [h]

/-- A length byte goes to the length registers, error cases included (R102); mode and header registers stand. -/
@[simp] theorem byteInLen_writes_length (b : Byte) (s : State) :
    (byteInLen b s).r_mode = s.r_mode ∧ (byteInLen b s).r_type = s.r_type ∧ (byteInLen b s).r_flags = s.r_flags ∧
      (byteInLen b s).r_acc = addDigit s.r_acc (digitField b) s.r_idx ∧
      (byteInLen b s).r_raw = putByte s.r_raw b s.r_idx ∧ (byteInLen b s).host = s.host := by
  rcases byteInLen_cases b s with ⟨-, -, h⟩ | ⟨-, -, h⟩ | ⟨-, -, -, h⟩ | ⟨-, -, h⟩ <;> simp [h]

/-! ### Cycles that open a call -/

theorem step_next_unique {s t u : State} (ht : step s = .next t) (hu : step s = .next u) : t = u :=
  Host.Outcome.next.inj (ht.symm.trans hu)

theorem step_of_start {s : State} {m : Mode} (h : (present s).command = some (.start m)) :
    step s = .next (openCall m (advance s)) := step_of_command h

/-- Reset opens a PARSE call (R153). -/
theorem step_of_opensCall {s : State} (h : OpensCall (present s)) :
    ∃ m, step s = .next (openCall m (advance s)) := by
  rcases h with hrst | ⟨m, hstart⟩
  · exact ⟨.parse, step_of_reset hrst⟩
  · exact ⟨m, step_of_start hstart⟩

/-! ### Cycles that do not -/

/-- Everything a step can do without opening a call: nothing, END in an open call, BYTE in phase TYPE or LEN. -/
theorem step_cases_of_not_opensCall {s t : State} (h : step s = .next t) (hopen : ¬ OpensCall (present s)) :
    (((present s).command = some .nop ∨ s.r_ph = .done) ∧ t = advance s) ∨
      ((present s).command = some .endOfBuffer ∧ s.r_ph ≠ .done ∧ t = raise .truncatedInput (advance s)) ∨
      (∃ b, (present s).command = some (.byte b) ∧ s.r_ph = .type ∧ t = byteInType b (advance s)) ∨
      (∃ b, (present s).command = some (.byte b) ∧ s.r_ph = .len ∧ t = byteInLen b (advance s)) := by
  rcases step_cases s with ⟨hc, -⟩ | ⟨hc, hs⟩ | ⟨m, hc, -⟩ | ⟨hc, hp, hs⟩ | ⟨-, hp, hs⟩ | ⟨b, hc, hp, hs⟩ |
    ⟨b, hc, hp, hs⟩ | ⟨-, -, hp, hs⟩
  · exact absurd (.inl (command_eq_none.mp hc)) hopen
  · exact .inl ⟨.inl hc, step_next_unique h hs⟩
  · exact absurd (.inr ⟨m, hc⟩) hopen
  · exact .inr (.inl ⟨hc, hp, step_next_unique h hs⟩)
  · exact .inl ⟨.inr hp, step_next_unique h hs⟩
  · exact .inr (.inr (.inl ⟨b, hc, hp, step_next_unique h hs⟩))
  · exact .inr (.inr (.inr ⟨b, hc, hp, step_next_unique h hs⟩))
  · exact .inl ⟨.inr hp, step_next_unique h hs⟩

theorem step_keeps_mode {s t : State} (h : step s = .next t) (hopen : ¬ OpensCall (present s)) :
    t.r_mode = s.r_mode := by
  rcases step_cases_of_not_opensCall h hopen with ⟨-, rfl⟩ | ⟨-, -, rfl⟩ | ⟨b, -, -, rfl⟩ | ⟨b, -, -, rfl⟩ <;> simp

/-- Without an opening cycle only a BYTE in phase TYPE can touch the header registers. -/
theorem step_keeps_header {s t : State} (h : step s = .next t) (hopen : ¬ OpensCall (present s))
    (hbyte : s.r_ph ≠ .type ∨ ∀ b, (present s).command ≠ some (.byte b)) :
    t.r_type = s.r_type ∧ t.r_flags = s.r_flags := by
  rcases step_cases_of_not_opensCall h hopen with ⟨-, rfl⟩ | ⟨-, -, rfl⟩ | ⟨b, hc, hp, rfl⟩ | ⟨b, -, -, rfl⟩
  · simp
  · simp
  · exact hbyte.elim (absurd hp) fun hno => absurd hc (hno b)
  · simp

theorem step_byte_in_type_writes_header {s t : State} {b : Byte} (h : step s = .next t)
    (hc : (present s).command = some (.byte b)) (hp : s.r_ph = .type) :
    t.r_type = typeField b ∧ t.r_flags = flagsField b := by
  have hs : step s = .next (byteInType b (advance s)) := (step_of_command hc).trans (exec_byte_of_type b hp)
  simp [step_next_unique h hs]

/-- An RLDEC call is never in phase TYPE (R18). -/
theorem RegInv.ph_ne_type_of_rldec {s : State} (hinv : RegInv s) (hmode : s.r_mode = .rldec) : s.r_ph ≠ .type := by
  intro hp
  obtain ⟨hparse, -⟩ := hinv.typeFresh hp
  rw [hmode] at hparse
  cases hparse

/-! ### The statements -/

/-- Settles O23, by the two kinds of cycle: what an opening cycle loads, and that no other cycle writes `r_mode`. -/
theorem modeIsWrittenOnlyByStartAndReset : Obligations.ModeIsWrittenOnlyByStartAndReset := by
  unfold Obligations.ModeIsWrittenOnlyByStartAndReset
  intro s t h
  refine ⟨fun hrst => ?_, fun m hstart => ?_, step_keeps_mode h⟩
  · simp [step_next_unique h (step_of_reset hrst)]
  · simp [step_next_unique h (step_of_start hstart)]

/-- Settles O24, by the two kinds of cycle; the RLDEC clause holds because an RLDEC call has no phase TYPE, so the step
keeps the zeros that the invariant gives. -/
theorem headerRegistersAreWrittenOnlyByByteZero : Obligations.HeaderRegistersAreWrittenOnlyByByteZero := by
  unfold Obligations.HeaderRegistersAreWrittenOnlyByByteZero
  intro s t h
  refine ⟨fun hopen => ?_, fun b => step_byte_in_type_writes_header h, step_keeps_header h, fun hinv hmode hopen => ?_⟩
  · obtain ⟨m, hs⟩ := step_of_opensCall hopen
    simp [step_next_unique h hs]
  · obtain ⟨htype, hflags⟩ := step_keeps_header h hopen (.inl (hinv.ph_ne_type_of_rldec hmode))
    rw [htype, hflags]
    exact hinv.rldecHeader hmode

end Sys2Proof.Machine
end

section
/-! PROOFS. The packet types (`40_packet_type.md`): the type map, gates 2 to 4 on byte 0 at Level F, `parse` from gate 5 on,
the error ports after a raise, and from these the rows of byte 0 with fixed flags, PUBLISH and RESERVED. -/

namespace Sys2Proof.Machine

/-! ### The type map -/

@[simp] theorem ofCode_code (t : PacketType) : PacketType.ofCode t.code = t := by cases t <;> rfl

@[simp] theorem code_ofCode (c : Nibble) : (PacketType.ofCode c).code = c := by revert c; decide

theorem decodeType_eq_iff (b b' : Byte) : decodeType b = decodeType b' ↔ typeField b = typeField b' := by
  constructor
  · intro h
    rw [typeField_eq_code, typeField_eq_code, h]
  · exact congrArg PacketType.ofCode

@[simp] theorem decodeType_fh0Byte (c f : Nibble) : decodeType (fh0Byte c f) = PacketType.ofCode c := by
  rw [decodeType, typeField_fh0Byte]

/-! ### The word of a header row -/

/-- The word is zero-extended to 11 bits and cut to one byte again, which gives back byte 0. -/
theorem encode_of_fh0 {i : Instr} {b : Byte} (hf : i.format = .fh0) (hw : i.word = b.setWidth 11) : encode i = [b] := by
  rw [encode, hf, hw]
  simp only [BitVec.setWidth_setWidth_of_le b (show 8 ≤ 11 by decide), BitVec.setWidth_eq]

/-! ### Gates 2 to 4 at Level F -/

/-- `validate_flags` where the table has a value (R80). -/
theorem validateFlags_of_required {t : PacketType} {e : Nibble} (h : reservedFlags t = some e) (n : Nibble) :
    validateFlags t n = if n = e then .ok n else .error (.invalidFlags (e.setWidth 8) (n.setWidth 8)) := by
  cases t <;> cases h <;> rfl

theorem validateFlags_publish (n : Nibble) : validateFlags .publish n = .ok n := rfl

theorem decodeQos_eq_invalid_iff (q : BitVec 2) : decodeQos q = .invalid ↔ q = 3 := by revert q; decide

theorem parseByte0_of_reserved {b : Byte} (h : decodeType b = .reserved) :
    parseByte0 b = .error .reservedTypeUsed := by
  rw [parseByte0, if_pos h]

/-- A type of the table is neither Reserved nor Publish, so gate 3 alone decides (R80, R111). -/
theorem parseByte0_of_required {b : Byte} {e : Nibble} (h : reservedFlags (decodeType b) = some e) :
    parseByte0 b = if flagsField b = e then .ok (decodeType b, flagsField b, none)
      else .error (.invalidFlags (e.setWidth 8) ((flagsField b).setWidth 8)) := by
  have hres : decodeType b ≠ .reserved := fun ht => by rw [ht] at h; cases h
  have hpub : decodeType b ≠ .publish := fun ht => by rw [ht] at h; cases h
  rw [parseByte0, if_neg hres, validateFlags_of_required h]
  by_cases hf : flagsField b = e
  · simp [hf, hpub]
  · simp [hf]

/-- A PUBLISH byte passes gates 2 and 3, so gate 4 alone decides (R66, R112). -/
theorem parseByte0_of_publish {b : Byte} (h : decodeType b = .publish) :
    parseByte0 b = if qosField (flagsField b) = 3 then .error (.invalidQos 3)
      else .ok (.publish, flagsField b, some (decodePublishFlags (flagsField b))) := by
  by_cases hq : qosField (flagsField b) = 3
  · have hbad : (decodePublishFlags (flagsField b)).qos = .invalid := (decodeQos_eq_invalid_iff _).mpr hq
    rw [if_pos hq]
    simp [parseByte0, h, validateFlags_publish, hbad, hq]
  · have hgood : (decodePublishFlags (flagsField b)).qos ≠ .invalid := (decodeQos_eq_invalid_iff _).not.mpr hq
    rw [if_neg hq]
    simp [parseByte0, h, validateFlags_publish, hgood]

/-! ### `parse` from byte 0 on -/

/-- An error of gates 2 to 4 is the result, whatever follows byte 0 (R108). -/
theorem parse_cons_of_error {b : Byte} {e : ParseError} (h : parseByte0 b = .error e) (rest : Buffer) :
    parse (b :: rest) = .error e := by
  simp [parse, memRead, h]

/-- After an accepted byte 0 the length decides (R113), and the header holds the raw nibble (R114). -/
theorem parse_cons_of_ok {b : Byte} {t : PacketType} {f : Nibble} {pf : Option PublishFlags}
    (h : parseByte0 b = .ok (t, f, pf)) (rest : Buffer) :
    parse (b :: rest) = (decodeRemainingLength rest).map fun rl =>
      { packet_type := t, flags := f.setWidth 8, publish_flags := pf, remaining_length := rl } := by
  cases hl : decodeRemainingLength rest <;> simp [parse, memRead, h, hl, Except.map]

/-! ### The error ports after a raise -/

/-- The reserved-flag table is read for `InvalidFlags` only (R27). -/
@[simp] theorem ports_raise_err_expected (e : Status) (s : State) : (ports (raise e s)).err_expected =
    if e = .invalidFlags then reservedFlags (PacketType.ofCode s.r_type) else some 0 := by
  simp [ports]

/-- `InvalidFlags` shows the nibble, `InvalidQos` the QoS bits 11 (R27). -/
@[simp] theorem ports_raise_err_found (e : Status) (s : State) : (ports (raise e s)).err_found =
    if e = .invalidFlags then s.r_flags else if e = .invalidQos then 3 else 0 := by
  simp [ports]

/-! ### The rows whose flags are fixed -/

/-- What distinguishes one row from another: its format and word, the meaning `exec` gives it, the variant of its code, and
the table's value for that variant. The rest of its behaviour is the same for every row. -/
structure FixedFlagsRow.Requires (r : FixedFlagsRow) (required : Nibble) : Prop where
  format_eq : ∀ f, (r.row f).format = .fh0
  word_eq : ∀ f, (r.row f).word = (fh0Byte r.code f).setWidth 11
  exec_eq : ∀ f s, exec (r.row f) s = headerRow (fixedFlagsHeader r.code required f) (fh0Byte r.code f) s
  ofCode_eq : PacketType.ofCode r.code = r.variant
  reservedFlags_eq : reservedFlags r.variant = some required

theorem zeroFlagsRows_require_zero : ∀ r ∈ zeroFlagsRows, r.Requires 0 := by
  simp only [zeroFlagsRows, List.forall_mem_cons]
  exact ⟨⟨fun _ => rfl, fun _ => rfl, exec_connect, rfl, rfl⟩, ⟨fun _ => rfl, fun _ => rfl, exec_connack, rfl, rfl⟩,
    ⟨fun _ => rfl, fun _ => rfl, exec_puback, rfl, rfl⟩, ⟨fun _ => rfl, fun _ => rfl, exec_pubrec, rfl, rfl⟩,
    ⟨fun _ => rfl, fun _ => rfl, exec_pubcomp, rfl, rfl⟩, ⟨fun _ => rfl, fun _ => rfl, exec_suback, rfl, rfl⟩,
    ⟨fun _ => rfl, fun _ => rfl, exec_unsuback, rfl, rfl⟩, ⟨fun _ => rfl, fun _ => rfl, exec_pingreq, rfl, rfl⟩,
    ⟨fun _ => rfl, fun _ => rfl, exec_pingresp, rfl, rfl⟩, ⟨fun _ => rfl, fun _ => rfl, exec_disconnect, rfl, rfl⟩,
    ⟨fun _ => rfl, fun _ => rfl, exec_auth, rfl, rfl⟩, List.forall_mem_nil _⟩

theorem twoFlagsRows_require_two : ∀ r ∈ twoFlagsRows, r.Requires 2 := by
  simp only [twoFlagsRows, List.forall_mem_cons]
  exact ⟨⟨fun _ => rfl, fun _ => rfl, exec_pubrel, rfl, rfl⟩, ⟨fun _ => rfl, fun _ => rfl, exec_subscribe, rfl, rfl⟩,
    ⟨fun _ => rfl, fun _ => rfl, exec_unsubscribe, rfl, rfl⟩, List.forall_mem_nil _⟩

namespace FixedFlagsRow.Requires

variable {r : FixedFlagsRow} {required f : Nibble} {s : State}

theorem encode_row (h : r.Requires required) (f : Nibble) : encode (r.row f) = [fh0Byte r.code f] :=
  encode_of_fh0 (h.format_eq f) (h.word_eq f)

theorem exec_accepts (h : r.Requires required) (hp : s.r_ph = .type) (hf : f = required) :
    exec (r.row f) s = .next (expectLength (setHeader r.code f s)) := by
  rw [h.exec_eq, headerRow_of_type hp, fixedFlagsHeader, if_pos hf]

theorem exec_rejects (h : r.Requires required) (hp : s.r_ph = .type) (hf : f ≠ required) :
    exec (r.row f) s = .next (raise .invalidFlags (setHeader r.code f s)) := by
  rw [h.exec_eq, headerRow_of_type hp, fixedFlagsHeader, if_neg hf]

/-- The port recovers the required nibble from the code in `r_type` (R27, R134). -/
theorem err_expected_of_rejected (h : r.Requires required) (f : Nibble) (s : State) :
    (ports (raise .invalidFlags (setHeader r.code f s))).err_expected = some required := by
  simp [h.ofCode_eq, h.reservedFlags_eq]

theorem parse_row (h : r.Requires required) (f : Nibble) (rest : Buffer) :
    parse (fh0Byte r.code f :: rest) =
      if f = required then
        (decodeRemainingLength rest).map fun rl =>
          { packet_type := r.variant, flags := required.setWidth 8, publish_flags := none, remaining_length := rl }
      else .error (.invalidFlags (required.setWidth 8) (f.setWidth 8)) := by
  have htype : decodeType (fh0Byte r.code f) = r.variant := (decodeType_fh0Byte r.code f).trans h.ofCode_eq
  have hbyte := parseByte0_of_required (htype.symm ▸ h.reservedFlags_eq)
  rw [htype, flagsField_fh0Byte] at hbyte
  by_cases hf : f = required
  · subst hf
    rw [if_pos rfl] at hbyte ⊢
    exact parse_cons_of_ok hbyte rest
  · rw [if_neg hf] at hbyte ⊢
    exact parse_cons_of_error hbyte rest

end FixedFlagsRow.Requires

/-! ### PUBLISH -/

theorem exec_publish_accepts {f : Nibble} {s : State} (hp : s.r_ph = .type) (hq : qosField f ≠ 3) :
    exec (.publish f) s = .next (expectLength (setHeader 3 f s)) := by
  rw [exec_publish, headerRow_of_type hp, if_neg hq]

theorem exec_publish_rejects {f : Nibble} {s : State} (hp : s.r_ph = .type) (hq : qosField f = 3) :
    exec (.publish f) s = .next (raise .invalidQos (setHeader 3 f s)) := by
  rw [exec_publish, headerRow_of_type hp, if_pos hq]

theorem parse_publish (f : Nibble) (rest : Buffer) :
    parse (fh0Byte 3 f :: rest) =
      if qosField f = 3 then .error (.invalidQos 3)
      else (decodeRemainingLength rest).map fun rl =>
        { packet_type := .publish, flags := f.setWidth 8, publish_flags := some (decodePublishFlags f),
          remaining_length := rl } := by
  have hbyte := parseByte0_of_publish (decodeType_fh0Byte 3 f)
  rw [flagsField_fh0Byte] at hbyte
  by_cases hq : qosField f = 3
  · rw [if_pos hq] at hbyte ⊢
    exact parse_cons_of_error hbyte rest
  · rw [if_neg hq] at hbyte ⊢
    exact parse_cons_of_ok hbyte rest

/-! ### The statements -/

/-- Settles O9: the eleven rows require 0000, and a row that requires a nibble behaves as the rule says of it. -/
theorem zeroFlagsTypesAcceptOnlyZeroFlags : Obligations.ZeroFlagsTypesAcceptOnlyZeroFlags := by
  unfold Obligations.ZeroFlagsTypesAcceptOnlyZeroFlags
  intro r hr f s rest
  have h := zeroFlagsRows_require_zero r hr
  exact ⟨h.encode_row f, h.exec_accepts, fun hp hf => ⟨_, h.exec_rejects hp hf, rfl,
    h.err_expected_of_rejected f s, ports_raise_err_found _ _⟩, h.parse_row f rest⟩

/-- Settles O10: the three rows require 0010, and a row that requires a nibble behaves as the rule says of it. -/
theorem twoFlagsTypesAcceptOnlyFlagsTwo : Obligations.TwoFlagsTypesAcceptOnlyFlagsTwo := by
  unfold Obligations.TwoFlagsTypesAcceptOnlyFlagsTwo
  intro r hr f s rest
  have h := twoFlagsRows_require_two r hr
  exact ⟨h.encode_row f, h.exec_accepts, fun hp hf => ⟨_, h.exec_rejects hp hf, rfl,
    h.err_expected_of_rejected f s, ports_raise_err_found _ _⟩, h.parse_row f rest⟩

/-- Settles O12: gate 4 is the only gate a PUBLISH byte can fail, at both levels. -/
theorem publishRejectsOnlyQosThree : Obligations.PublishRejectsOnlyQosThree := by
  unfold Obligations.PublishRejectsOnlyQosThree
  intro f s rest
  exact ⟨encode_of_fh0 rfl rfl, exec_publish_accepts, fun hp hq => ⟨_, exec_publish_rejects hp hq, rfl,
    ports_raise_err_expected _ _, ports_raise_err_found _ _⟩, parse_publish f rest⟩

/-- Settles O11: gate 2 comes before the flags and before the rest of the buffer, at both levels. -/
theorem reservedTypeIsAlwaysRejected : Obligations.ReservedTypeIsAlwaysRejected := by
  unfold Obligations.ReservedTypeIsAlwaysRejected
  intro f s rest
  refine ⟨encode_of_fh0 rfl rfl, fun hp => ⟨_, (exec_reserved f s).trans (headerRow_of_type hp), rfl,
    ports_raise_err_expected _ _, ports_raise_err_found _ _⟩, ?_⟩
  exact parse_cons_of_error (parseByte0_of_reserved (decodeType_fh0Byte 0 f)) rest

/-- Settles O33: `code` inverts `ofCode` on both sides, so equal types have equal codes, and the code is the high nibble. -/
theorem typeDecodeIsABijection : Obligations.TypeDecodeIsABijection := by
  unfold Obligations.TypeDecodeIsABijection
  exact ⟨ofCode_code, code_ofCode, decodeType_eq_iff⟩

end Sys2Proof.Machine
end

section
/-! PROOFS. The flag validator (`41_flag_validation.md`): where the reserved-flag table has a value, and from this the
three cases of `validate_flags`. -/

namespace Sys2Proof.Machine

/-! ### The reserved-flag table -/

/-- The 14 types of the table: 0010 for three of them, 0000 for the other eleven (R62). -/
theorem reservedFlags_of_ne_reserved_of_ne_publish {t : PacketType} (hres : t ≠ .reserved) (hpub : t ≠ .publish) :
    reservedFlags t = some (if t = .pubRel ∨ t = .subscribe ∨ t = .unsubscribe then 2 else 0) := by
  cases t
  case reserved => exact absurd rfl hres
  case publish => exact absurd rfl hpub
  all_goals rfl

/-- The table is undefined at the two types that `validate_flags` answers before it reads the table (R62, R80). -/
theorem reservedFlags_eq_none_iff (t : PacketType) : reservedFlags t = none ↔ t = .reserved ∨ t = .publish := by
  constructor
  · intro hnone
    by_contra hne
    obtain ⟨hres, hpub⟩ := not_or.mp hne
    rw [reservedFlags_of_ne_reserved_of_ne_publish hres hpub] at hnone
    cases hnone
  · rintro (rfl | rfl) <;> rfl

/-! ### The validator at Reserved -/

theorem validateFlags_reserved (n : Nibble) : validateFlags .reserved n = .error .reservedTypeUsed := rfl

/-! ### The statement -/

/-- Settles O34, by the three cases of R80: Reserved and Publish are answered without the table, and for every other type
the table has a value, which alone decides. -/
theorem flagValidationIsExhaustive : Obligations.FlagValidationIsExhaustive := by
  unfold Obligations.FlagValidationIsExhaustive
  intro t n
  refine ⟨?reserved, ?publish, ?table, reservedFlags_eq_none_iff t⟩
  case reserved =>
    rintro rfl
    exact validateFlags_reserved n
  case publish =>
    rintro rfl
    exact validateFlags_publish n
  case table =>
    intro hres hpub
    have hrf := reservedFlags_of_ne_reserved_of_ne_publish hres hpub
    have hval := validateFlags_of_required hrf n
    exact ⟨_, rfl, hrf, fun heq => hval.trans (if_pos heq), fun hne => hval.trans (if_neg hne)⟩

end Sys2Proof.Machine
end

section
/-! PROOFS. The remaining length at Level F, decoder (`43_remaining_length.md` R90 to R100): `minlen` as a comparison with a
power of 128, the end of a field, and which of its answers a scan gives when. -/

namespace Sys2Proof.Machine

/-! ### The minimal byte count -/

theorem minlen_pos (v : Nat) : 0 < minlen v := by
  unfold minlen
  split_ifs <;> decide

/-- `minlen(v)` is the least byte count whose digits can hold `v` (R96). -/
theorem minlen_le_iff {v n : Nat} (hpos : 0 < n) (hmax : n ≤ 4) : minlen v ≤ n ↔ v < 128 ^ n := by
  unfold minlen
  interval_cases n <;> split_ifs <;> omega

/-- The hardware's test for padding: a byte that is not the first and adds no value (R98). -/
theorem minlen_le_length_iff_padded {pre : List Byte} {b : Byte} (hmax : pre.length ≤ 3) :
    minlen (spelledValue (pre ++ [b])) ≤ pre.length ↔ 1 ≤ pre.length ∧ digitField b = 0 := by
  have hpre := spelledValue_lt pre
  have hdigit : digitField b = 0 ↔ b.toNat % 128 = 0 := by rw [← digitField_toNat, ← BitVec.toNat_inj]; rfl
  rcases Nat.eq_zero_or_pos pre.length with hzero | hpos
  · have hmin := minlen_pos (spelledValue (pre ++ [b]))
    omega
  · rw [minlen_le_iff hpos (by omega), spelledValue_append_singleton, hdigit]
    constructor
    · intro hlt
      refine ⟨hpos, by_contra fun hne => ?_⟩
      have hle := Nat.le_mul_of_pos_left (128 ^ pre.length) (Nat.pos_of_ne_zero hne)
      omega
    · rintro ⟨-, hz⟩
      simpa [hz] using hpre

/-! ### The end of a field -/

theorem properlyEnded_cons (b : Byte) (rest : List Byte) :
    properlyEnded (b :: rest) = if contField b then properlyEnded rest else rest.isEmpty := by
  rw [contField_eq]
  cases rest <;> by_cases hb : 128 ≤ b.toNat <;> simp [properlyEnded, hb, Nat.lt_of_not_le]

theorem length_pos_of_properlyEnded {field : List Byte} (h : properlyEnded field = true) : 0 < field.length :=
  List.length_pos_of_ne_nil fun hnil => by simp [hnil, properlyEnded] at h

/-- At the end of a field only padding is an error (R97). -/
theorem endOfField_eq_error_iff (field : List Byte) (e : ParseError) :
    endOfField field = .error e ↔ minlen (spelledValue field) < field.length ∧ e = .nonMinimalEncoding := by
  rw [endOfField]
  split <;> simp_all [eq_comm]

/-- The record of a field of at most four bytes (R100); its value fits a `u32` (R101). -/
theorem endOfField_eq_ok_iff {field : List Byte} (hend : properlyEnded field = true) (hmax : field.length ≤ 4)
    (r : RemainingLength) :
    endOfField field = .ok r ↔ minlen (spelledValue field) = field.length ∧ r.value.toNat = spelledValue field ∧
      r.encoded_byte_count = field.length ∧ r.raw_bytes = field := by
  have hlt := spelledValue_lt field
  have hmin : minlen (spelledValue field) ≤ field.length :=
    (minlen_le_iff (length_pos_of_properlyEnded hend) hmax).mpr hlt
  have hfit : spelledValue field < 2 ^ 32 :=
    calc spelledValue field < 128 ^ field.length := hlt
      _ ≤ 128 ^ 4 := Nat.pow_le_pow_right (by decide) hmax
      _ < 2 ^ 32 := by decide
  have hval : r.value = BitVec.ofNat 32 (spelledValue field) ↔ r.value.toNat = spelledValue field := by
    rw [← BitVec.toNat_inj, BitVec.toNat_ofNat, Nat.mod_eq_of_lt hfit]
  rw [endOfField, ← hval]
  obtain ⟨v, count, raw⟩ := r
  split
  case isTrue hpad => simp [hpad.ne]
  case isFalse hpad => simp [hmin.antisymm (Nat.not_lt.mp hpad), eq_comm]

theorem wellFormed_of_endOfField {field : List Byte} {r : RemainingLength} (hend : properlyEnded field = true)
    (hmax : field.length ≤ 4) (h : endOfField field = .ok r) : r.wellFormed = true := by
  obtain ⟨hmin, hval, hcount, hraw⟩ := (endOfField_eq_ok_iff hend hmax r).mp h
  have hpos := length_pos_of_properlyEnded hend
  have hrange : spelledValue field ≤ Config.rlValueMax := by
    have hlt : spelledValue field < 128 ^ 4 := (minlen_le_iff (by decide) le_rfl).mp (by omega)
    exact Nat.le_of_lt_succ hlt
  have hleast : field.length ≤ 1 ∨ Config.rlBase ^ (field.length - 1) ≤ spelledValue field := by
    rcases Nat.lt_or_ge 1 field.length with hlong | hshort
    · refine .inr (Nat.not_lt.mp fun hlt => ?_)
      have hle := (minlen_le_iff (by omega) (by omega)).mpr hlt
      omega
    · exact .inl hshort
  simp [RemainingLength.wellFormed, RemainingLength.valueInRange, RemainingLength.countInRange,
    RemainingLength.rawSpellsValue, RemainingLength.minimal, hval, hcount, hraw, hend, hrange, hleast, hmax,
    Nat.succ_le_of_lt hpos]

/-! ### The answers of a scan -/

/-- A scan is malformed when all the bytes it may read go on (R93). -/
theorem scanLength_eq_malformed_iff (left : Nat) (pre rest : List Byte) :
    scanLength left pre rest = .error .malformedRemainingLength ↔
      left ≤ rest.length ∧ ∀ b ∈ rest.take left, contField b = true := by
  induction left generalizing pre rest with
  | zero => simp [scanLength]
  | succ left ih =>
    cases rest with
    | nil => simp [scanLength]
    | cons b rest => cases hb : contField b <;> simp [scanLength, hb, endOfField_eq_error_iff, ih]

/-- A scan is truncated when all the bytes there are go on, and it may read more (R94). -/
theorem scanLength_eq_truncated_iff (left : Nat) (pre rest : List Byte) :
    scanLength left pre rest = .error .truncatedInput ↔ rest.length < left ∧ ∀ b ∈ rest, contField b = true := by
  induction left generalizing pre rest with
  | zero => simp [scanLength]
  | succ left ih =>
    cases rest with
    | nil => simp [scanLength]
    | cons b rest => cases hb : contField b <;> simp [scanLength, hb, endOfField_eq_error_iff, ih]

/-- Every other answer is that of a field that ends properly among the bytes the scan may read (R92). -/
theorem scanLength_eq_iff_endOfField {x : Result RemainingLength} (hmal : x ≠ .error .malformedRemainingLength)
    (htrunc : x ≠ .error .truncatedInput) (left : Nat) (pre rest : List Byte) :
    scanLength left pre rest = x ↔
      ∃ n, n ≤ left ∧ n ≤ rest.length ∧ properlyEnded (rest.take n) = true ∧ endOfField (pre ++ rest.take n) = x := by
  induction left generalizing pre rest with
  | zero => simp [scanLength, hmal.symm, properlyEnded]
  | succ left ih =>
    cases rest with
    | nil => simp [scanLength, htrunc.symm, properlyEnded]
    | cons b rest =>
      rw [scanLength]
      constructor
      · intro h
        split at h
        case isTrue hb =>
          obtain ⟨n, hleft, hlen, hend, hx⟩ := (ih _ _).mp h
          exact ⟨n + 1, by omega, by simpa using hlen, by simpa [properlyEnded_cons, hb] using hend, by simpa using hx⟩
        case isFalse hb => exact ⟨1, by omega, by simp, by simp [properlyEnded_cons, hb], h⟩
      · rintro ⟨_ | n, hleft, hlen, hend, hx⟩
        · simp [properlyEnded] at hend
        · rw [List.take_succ_cons, properlyEnded_cons] at hend
          split
          case isTrue hb =>
            rw [if_pos hb] at hend
            exact (ih _ _).mpr ⟨n, by omega, by simpa using hlen, hend, by simpa using hx⟩
          case isFalse hb =>
            rw [if_neg hb, List.isEmpty_iff] at hend
            rwa [List.take_succ_cons, hend] at hx

theorem decodeRemainingLength_eq_iff_endOfField {x : Result RemainingLength}
    (hmal : x ≠ .error .malformedRemainingLength) (htrunc : x ≠ .error .truncatedInput) (bytes : Buffer) :
    decodeRemainingLength bytes = x ↔
      ∃ n, n ≤ 4 ∧ n ≤ bytes.length ∧ properlyEnded (bytes.take n) = true ∧ endOfField (bytes.take n) = x := by
  rw [decodeRemainingLength_eq_scan]
  exact scanLength_eq_iff_endOfField hmal htrunc 4 [] bytes

/-! ### The statements -/

/-- Settles O37: the two answers a scan gives without coming to the end of a field. -/
theorem malformedAndTruncatedExactly : Obligations.MalformedAndTruncatedExactly := by
  unfold Obligations.MalformedAndTruncatedExactly
  intro bytes
  rw [decodeRemainingLength_eq_scan]
  exact ⟨scanLength_eq_malformed_iff 4 [] bytes, scanLength_eq_truncated_iff 4 [] bytes⟩

/-- Settles O38: the scan's answer is that of its field, and a field is rejected only for padding. -/
theorem nonMinimalExactly : Obligations.NonMinimalExactly := by
  unfold Obligations.NonMinimalExactly
  intro bytes
  rw [decodeRemainingLength_eq_iff_endOfField (by simp) (by simp)]
  refine exists_congr fun n => and_congr_right fun _ => and_congr_right fun hlen => and_congr_right fun _ => ?_
  rw [endOfField_eq_error_iff, List.length_take_of_le hlen, and_iff_left rfl]

/-- Settles O39: the scan's answer is that of its field, and a field that is not rejected gives its record. -/
theorem lengthDecodesExactlyMinimalFields : Obligations.LengthDecodesExactlyMinimalFields := by
  unfold Obligations.LengthDecodesExactlyMinimalFields
  intro bytes r
  rw [decodeRemainingLength_eq_iff_endOfField (by simp) (by simp)]
  refine exists_congr fun n => and_congr_right fun hn => and_congr_right fun hlen => and_congr_right fun hend => ?_
  have hcount : (bytes.take n).length = n := List.length_take_of_le hlen
  rw [endOfField_eq_ok_iff hend (hcount.trans_le hn), hcount]

end Sys2Proof.Machine
end

section
/-! PROOFS. The remaining length at Level F, encoder (`43_remaining_length.md` R103 to R106): an induction principle for its
loop, what the loop emits, and that no decode path raises its error. -/

namespace Sys2Proof.Machine

/-! ### One digit -/

theorem minlen_digit (d : Digit) : minlen d.toNat = 1 := if_pos d.isLt

/-- A digit below a number that is not 0 costs one byte more (R96). -/
theorem minlen_digit_add (d : Digit) {q : Nat} (hpos : 0 < q) (hq : q < 128 ^ 3) :
    minlen (d.toNat + 128 * q) = minlen q + 1 := by
  have hd : d.toNat < 128 := d.isLt
  unfold minlen
  split_ifs <;> omega

theorem spelledValue_rlbByte_cons (c : BitVec 1) (d : Digit) (rest : List Byte) :
    spelledValue (rlbByte c d :: rest) = d.toNat + 128 * spelledValue rest := by
  rw [spelledValue, ← digitField_toNat, digitField_rlbByte]

/-! ### The loop -/

/-- The loop of R103, packaged: its last byte carries the highest digit, and before it stands a byte for a digit whose
quotient is not 0 yet. -/
theorem encodeDigits_induction {P : Nat → List Byte → Prop} (last : ∀ d : Digit, P d.toNat [rlbByte 0 d])
    (more : ∀ (d : Digit) (q : Nat) (rest : List Byte), 0 < q → q < 128 ^ 3 → P q rest →
      P (d.toNat + 128 * q) (rlbByte 1 d :: rest))
    {fuel : Nat} (hpos : 0 < fuel) (hmax : fuel ≤ 4) {v : Word} (hv : v.toNat < 128 ^ fuel) :
    P v.toNat (encodeDigits fuel v) := by
  induction fuel generalizing v with
  | zero => cases hpos
  | succ fuel ih =>
    have hd : (v.setWidth 7 : Digit).toNat = v.toNat % 128 := BitVec.toNat_setWidth 7 v
    have hq : (v / BitVec.ofNat 32 Config.rlBase).toNat = v.toNat / 128 := BitVec.toNat_udiv
    have hstop : v / BitVec.ofNat 32 Config.rlBase = 0 ↔ v.toNat / 128 = 0 := by rw [← BitVec.toNat_inj, hq]; rfl
    simp only [encodeDigits, hstop]
    split
    case isTrue hzero =>
      have hlast := last (v.setWidth 7)
      rwa [hd, Nat.mod_eq_of_lt (by omega)] at hlast
    case isFalse hmore =>
      have hbound : 128 ^ fuel ≤ 128 ^ 3 := Nat.pow_le_pow_right (by decide) (by omega)
      have hqlt : v.toNat / 128 < 128 ^ fuel := by omega
      have hfuel : 0 < fuel := Nat.pos_of_ne_zero fun h => by subst h; omega
      have hrest := ih hfuel (by omega) (hq ▸ hqlt)
      have hcons := more (v.setWidth 7) _ _ (by omega) (by omega) hrest
      rwa [hd, hq, Nat.mod_add_div] at hcons

section
variable {fuel : Nat} (hpos : 0 < fuel) (hmax : fuel ≤ 4) {v : Word} (hv : v.toNat < 128 ^ fuel)
include hpos hmax hv

theorem properlyEnded_encodeDigits : properlyEnded (encodeDigits fuel v) = true :=
  encodeDigits_induction (P := fun _ field => properlyEnded field = true)
    (fun d => by simp [properlyEnded_cons, contField_rlbByte])
    (fun d _ _ _ _ hrest => by simp [properlyEnded_cons, contField_rlbByte, hrest]) hpos hmax hv

theorem spelledValue_encodeDigits : spelledValue (encodeDigits fuel v) = v.toNat :=
  encodeDigits_induction (P := fun n field => spelledValue field = n)
    (fun d => spelledValue_rlbByte_cons 0 d [])
    (fun d _ _ _ _ hrest => by rw [spelledValue_rlbByte_cons, hrest]) hpos hmax hv

theorem length_encodeDigits : (encodeDigits fuel v).length = minlen v.toNat :=
  encodeDigits_induction (P := fun n field => field.length = minlen n)
    (fun d => (minlen_digit d).symm)
    (fun d _ _ hq hlt hrest => by rw [minlen_digit_add d hq hlt, List.length_cons, hrest]) hpos hmax hv

end

/-! ### The encoder's answers -/

theorem encodeRemainingLength_of_le {v : Word} (h : v.toNat ≤ Config.rlValueMax) :
    encodeRemainingLength v = .ok
      { value := v, encoded_byte_count := minlen v.toNat, raw_bytes := encodeDigits Config.rlMaxBytes v } := by
  rw [encodeRemainingLength, if_neg (Nat.not_lt.mpr h), ← length_encodeDigits (by decide) le_rfl (Nat.lt_succ_of_le h)]

theorem encodeRemainingLength_eq_valueTooLarge_iff (v : Word) :
    encodeRemainingLength v = .error .valueTooLarge ↔ Config.rlValueMax < v.toNat := by
  rw [encodeRemainingLength]
  split <;> simp_all

/-- Above `RL_VALUE_MAX`, which is 2^28 - 1, one of bits 31 to 28 is 1 (R104). -/
theorem rlValueMax_lt_iff_high_bits (v : Word) : Config.rlValueMax < v.toNat ↔ v.extractLsb' 28 4 ≠ 0 := by
  rw [Ne, ← BitVec.toNat_inj, BitVec.extractLsb'_toNat, Nat.shiftRight_eq_div_pow,
    show (0 : BitVec 4).toNat = 0 from rfl, Config.rlValueMax]
  omega

/-! ### The decode paths -/

theorem decodeRemainingLength_ne_valueTooLarge (bytes : Buffer) :
    decodeRemainingLength bytes ≠ .error .valueTooLarge := by
  rw [Ne, decodeRemainingLength_eq_iff_endOfField (by simp) (by simp)]
  rintro ⟨n, -, -, -, hx⟩
  simp [endOfField_eq_error_iff] at hx

/-- Gates 2 to 4 raise only errors of their own: at Reserved, at Publish, and where the table has a value. -/
theorem parseByte0_ne_valueTooLarge (b : Byte) : parseByte0 b ≠ .error .valueTooLarge := by
  cases hrf : reservedFlags (decodeType b) with
  | some e =>
    rw [parseByte0_of_required hrf]
    split <;> simp
  | none =>
    rcases (reservedFlags_eq_none_iff _).mp hrf with hres | hpub
    · simp [parseByte0_of_reserved hres]
    · rw [parseByte0_of_publish hpub]
      split <;> simp

theorem parse_ne_valueTooLarge (buf : Buffer) : parse buf ≠ .error .valueTooLarge := by
  cases buf with
  | nil => simp [parse, memRead]
  | cons b rest =>
    cases hb : parseByte0 b with
    | error e =>
      rw [parse_cons_of_error hb]
      intro h
      cases h
      exact parseByte0_ne_valueTooLarge b hb
    | ok x =>
      obtain ⟨t, f, pf⟩ := x
      rw [parse_cons_of_ok hb]
      intro h
      cases hl : decodeRemainingLength rest with
      | ok rl => simp [hl, Except.map] at h
      | error e =>
        rw [hl] at h
        cases h
        exact decodeRemainingLength_ne_valueTooLarge rest hl

/-! ### The statements -/

/-- Settles O44: the three facts about the encoder's loop at its four digits; the ranges are those of `minlen`. -/
theorem encoderEmitsTheMinimalField : Obligations.EncoderEmitsTheMinimalField := by
  unfold Obligations.EncoderEmitsTheMinimalField
  intro v hv
  have hlt : v.toNat < 128 ^ Config.rlMaxBytes := Nat.lt_succ_of_le hv
  refine ⟨_, encodeRemainingLength_of_le hv, rfl, properlyEnded_encodeDigits (by decide) le_rfl hlt,
    spelledValue_encodeDigits (by decide) le_rfl hlt, (length_encodeDigits (by decide) le_rfl hlt).symm, ?_⟩
  simp only [minlen]
  split_ifs <;> omega

/-- Settles O45: the encoder's one test, the same test on the top bits, and no such error from a field or a gate. -/
theorem valueTooLargeExactly : Obligations.ValueTooLargeExactly := by
  unfold Obligations.ValueTooLargeExactly
  intro v
  exact ⟨encodeRemainingLength_eq_valueTooLarge_iff v, rlValueMax_lt_iff_high_bits v,
    decodeRemainingLength_ne_valueTooLarge, parse_ne_valueTooLarge⟩

end Sys2Proof.Machine
end

section
/-! PROOFS. A length byte at Level H (`43_remaining_length.md` R102): what adding a digit and packing a byte do to registers
that hold nothing yet where the digit and the byte go, and the four endings of the byte. -/

namespace Sys2Proof.Machine

/-! ### The two writes -/

section
variable {acc raw : Word} {i : BitVec 2}

theorem getElem_eq_false_of_lt_two_pow {w : Word} {n k : Nat} (h : w.toNat < 2 ^ n) (hle : n ≤ k) (hk : k < 32) :
    w[k] = false := by
  rw [← BitVec.getLsbD_eq_getElem]
  exact Nat.testBit_lt_two_pow (h.trans_le (Nat.pow_le_pow_right (by decide) hle))

/-- The digit goes to bits that are still 0, so the sum is the OR (R102). -/
theorem addDigit_eq_or (d : Digit) (h : acc.toNat < 128 ^ i.toNat) :
    addDigit acc d i = acc ||| ((d.setWidth 32 : Word) <<< (7 * i.toNat)) := by
  rw [show (128 : Nat) = 2 ^ 7 from rfl, ← Nat.pow_mul] at h
  apply BitVec.add_eq_or_of_and_eq_zero
  ext k hk
  by_cases hle : 7 * i.toNat ≤ k
  · simp [getElem_eq_false_of_lt_two_pow h hle hk]
  · simp [Nat.lt_of_not_le hle]

/-- The sum does not wrap (R101). -/
theorem addDigit_toNat (d : Digit) (h : acc.toNat < 128 ^ i.toNat) :
    (addDigit acc d i).toNat = acc.toNat + d.toNat * 128 ^ i.toNat := by
  have hd : d.toNat < 128 := d.isLt
  have hi : i.toNat < 4 := i.isLt
  rw [addDigit, BitVec.toNat_add, BitVec.toNat_shiftLeft, BitVec.toNat_setWidth, Nat.shiftLeft_eq]
  generalize i.toNat = n at *
  interval_cases n <;> omega

theorem putByte_toNat_lt (b : Byte) (h : raw.toNat < 256 ^ i.toNat) : (putByte raw b i).toNat < 256 ^ (i.toNat + 1) := by
  have hb : b.toNat < 256 := b.isLt
  have hi : i.toNat < 4 := i.isLt
  rw [show (256 : Nat) = 2 ^ 8 from rfl, ← Nat.pow_mul] at *
  rw [putByte, BitVec.toNat_or]
  refine Nat.or_lt_two_pow (h.trans_le (Nat.pow_le_pow_right (by decide) (by omega))) ?_
  rw [BitVec.toNat_shiftLeft, BitVec.toNat_setWidth, Nat.shiftLeft_eq]
  generalize i.toNat = n at *
  interval_cases n <;> omega

theorem byteOf_putByte_of_lt (raw : Word) (b : Byte) {j : Nat} (h : j < i.toNat) :
    byteOf (putByte raw b i) j = byteOf raw j := by
  ext k hk
  have hbelow : 8 * j + k < 8 * i.toNat := by omega
  simp [byteOf, putByte, hbelow]

theorem byteOf_putByte_same (b : Byte) (h : raw.toNat < 256 ^ i.toNat) : byteOf (putByte raw b i) i.toNat = b := by
  rw [show (256 : Nat) = 2 ^ 8 from rfl, ← Nat.pow_mul] at h
  ext k hk
  have hfit : 8 * i.toNat + k < 32 := by omega
  have hfree := getElem_eq_false_of_lt_two_pow h (Nat.le_add_right _ k) hfit
  simp [byteOf, putByte, hfit, hfree, BitVec.getLsbD_eq_getElem hk]

theorem lowBytes_putByte (b : Byte) (h : raw.toNat < 256 ^ i.toNat) :
    lowBytes (putByte raw b i) (i.toNat + 1) = lowBytes raw i.toNat ++ [b] := by
  have hbelow : (List.range i.toNat).map (byteOf (putByte raw b i)) = lowBytes raw i.toNat :=
    List.map_congr_left fun j hj => byteOf_putByte_of_lt raw b (List.mem_range.mp hj)
  rw [lowBytes, List.range_succ, List.map_append, List.map_singleton, byteOf_putByte_same b h, hbelow]

end

@[simp] theorem length_lowBytes (raw : Word) (n : Nat) : (lowBytes raw n).length = n := by simp [lowBytes]

/-! ### The four endings -/

theorem byteInLen_of_cont {b : Byte} (h : contField b = true) (s : State) :
    byteInLen b s = continueLength (takeLengthByte b s) := if_pos h

theorem byteInLen_of_terminal {b : Byte} (h : contField b = false) (s : State) :
    byteInLen b s = endLength (digitField b) (takeLengthByte b s) := if_neg (Bool.eq_false_iff.mp h)

theorem continueLength_of_lt {s : State} (h : s.r_idx.toNat < 3) : continueLength s = nextLengthByte s := if_pos h

theorem continueLength_of_last {s : State} (h : s.r_idx.toNat = 3) :
    continueLength s = raise .malformedRemainingLength s := if_neg (by omega)

theorem endLength_of_padded {d : Digit} {s : State} (h : 1 ≤ s.r_idx.toNat ∧ d = 0) :
    endLength d s = raise .nonMinimalEncoding s := if_pos h

theorem endLength_of_unpadded {d : Digit} {s : State} (h : ¬ (1 ≤ s.r_idx.toNat ∧ d = 0)) :
    endLength d s = succeed s := if_neg h

/-! ### The record in the registers -/

section
variable {b : Byte} {s : State} (hinv : RegInv s) (hp : s.r_ph = .len) (hterm : contField b = false)
include hinv hp hterm

/-- The bytes taken before a terminal byte all go on, so the field ends properly with it. -/
theorem properlyEnded_lowBytes_append : properlyEnded (lowBytes s.r_raw s.r_idx.toNat ++ [b]) = true := by
  obtain ⟨-, -, hcont, -⟩ := hinv.lenSoFar hp
  rw [properlyEnded_append_singleton _ _ hcont, hterm, Bool.not_false]

/-- After an unpadded terminal byte the registers hold the record Level F gives the field (R100, R102). -/
theorem endOfField_eq_ok_lengthRecord (hunpadded : ¬ (1 ≤ s.r_idx.toNat ∧ digitField b = 0)) :
    endOfField (lowBytes s.r_raw s.r_idx.toNat ++ [b]) = .ok (lengthRecord (takeLengthByte b s)) := by
  obtain ⟨hacc, hraw, -, hspell⟩ := hinv.lenSoFar hp
  have hend := properlyEnded_lowBytes_append hinv hp hterm
  have hidx : s.r_idx.toNat < 4 := s.r_idx.isLt
  have hlen : (lowBytes s.r_raw s.r_idx.toNat ++ [b]).length = s.r_idx.toNat + 1 := by simp
  refine (endOfField_eq_ok_iff hend (by omega) _).mpr ⟨?_, ?_, hlen.symm, lowBytes_putByte b hraw⟩
  · have hle := spelledValue_lt (lowBytes s.r_raw s.r_idx.toNat ++ [b])
    rw [hlen, ← minlen_le_iff (by omega) (by omega)] at hle
    have hpad := minlen_le_length_iff_padded (pre := lowBytes s.r_raw s.r_idx.toNat) (b := b) (by simp; omega)
    rw [length_lowBytes] at hpad
    have hnot := hpad.not.mpr hunpadded
    omega
  · rw [spelledValue_append_singleton, hspell, length_lowBytes, ← digitField_toNat]
    exact addDigit_toNat (digitField b) hacc

end

/-! ### The statement -/

/-- Settles O7, by the four endings; the register invariant bounds `r_acc` and `r_raw` below the bits the byte is added to. -/
theorem byteInLenPhaseAddsOneDigit : Obligations.ByteInLenPhaseAddsOneDigit := by
  unfold Obligations.ByteInLenPhaseAddsOneDigit
  intro b s s1 hp hs1
  obtain rfl : s1 = takeLengthByte b s := hs1
  rw [exec_byte_of_len b hp]
  refine ⟨fun hcont hidx => ?_, fun hcont hidx => ?_, fun hterm hidx hd => ?_, fun hterm hor => ?_, fun hinv => ?_⟩
  · rw [byteInLen_of_cont hcont, continueLength_of_lt (s := takeLengthByte b s) hidx]
    rfl
  · rw [byteInLen_of_cont hcont, continueLength_of_last (s := takeLengthByte b s) hidx]
    rfl
  · rw [byteInLen_of_terminal hterm, endLength_of_padded (d := digitField b) (s := takeLengthByte b s) ⟨hidx, hd⟩]
    rfl
  · have hunpadded : ¬ (1 ≤ s.r_idx.toNat ∧ digitField b = 0) := fun ⟨hidx, hd⟩ =>
      hor.elim (Nat.ne_zero_of_lt hidx) (absurd hd)
    refine ⟨?_, fun hinv => ?_⟩
    · rw [byteInLen_of_terminal hterm, endLength_of_unpadded (s := takeLengthByte b s) hunpadded]
      rfl
    · obtain ⟨-, hraw, -⟩ := hinv.lenSoFar hp
      have hidx : s.r_idx.toNat < 4 := s.r_idx.isLt
      exact ⟨wellFormed_of_endOfField (properlyEnded_lowBytes_append hinv hp hterm) (by simp; omega)
        (endOfField_eq_ok_lengthRecord hinv hp hterm hunpadded), putByte_toNat_lt b hraw⟩
  · obtain ⟨hacc, -⟩ := hinv.lenSoFar hp
    exact addDigit_eq_or (digitField b) hacc

end Sys2Proof.Machine
end

section
/-! PROOFS. The fixed-header decoder (`44_fixed_header_decoder.md`): the host commands, gates 2 to 4 on byte 0 at both
levels, the errors of gates 2 to 4 in `parse`, and the phases after a step. -/

namespace Sys2Proof.Machine

/-! ### NOP, START and END -/

theorem exec_nop (s : State) : exec .nop s = .next s := rfl

theorem exec_start (m : Mode) (s : State) : exec (.start m) s = .next (openCall m s) := rfl

theorem exec_end_of_open {s : State} (h : s.r_ph ≠ .done) : exec .endOfBuffer s = .next (raise .truncatedInput s) := by
  change execEnd s = _
  cases hp : s.r_ph with
  | type => simp [execEnd, hp]
  | len => simp [execEnd, hp]
  | done => exact absurd hp h

theorem exec_end_of_done {s : State} (h : s.r_ph = .done) : exec .endOfBuffer s = .next s := by
  change execEnd s = _
  simp [execEnd, h]

theorem openCall_r_ph_ne_done (m : Mode) (s : State) : (openCall m s).r_ph ≠ .done := by cases m <;> simp

/-- Only the registers of a finished call reach the ports (R27). -/
theorem ports_of_ne_done {s : State} (h : s.r_ph ≠ .done) : ports s = Ports.zero := by simp [ports, Ports.zero, h]

/-- Nothing a call has left survives the next START (R123). -/
theorem openCall_openCall (m m' : Mode) (s : State) : openCall m (openCall m' s) = openCall m s := rfl

/-! ### The gates as conditions on byte 0 -/

theorem typeField_eq_code_iff (b : Byte) (t : PacketType) : typeField b = t.code ↔ decodeType b = t := by
  constructor
  · intro h
    rw [decodeType, h, ofCode_code]
  · rintro rfl
    exact typeField_eq_code b

/-- The QoS bits of the nibble are `b[2:1]` of byte 0 (R45, R46). -/
theorem qosField_flagsField (b : Byte) : qosField (flagsField b) = b.extractLsb' 1 2 := by revert b; decide

/-- Gate 3 fails exactly where the table has a value and the nibble is another (R84). -/
theorem flagsBad_eq_true_iff (t : PacketType) (f : Nibble) :
    flagsBad t f = true ↔ ∃ e, reservedFlags t = some e ∧ e ≠ f := by
  cases h : reservedFlags t with
  | none => simp [flagsBad, h]
  | some e => simpa [flagsBad, h] using ne_comm

theorem flagsBad_eq_false_of_publish (f : Nibble) : flagsBad .publish f = false := rfl

/-- Gate 4 fails exactly for a PUBLISH nibble with QoS bits 11 (R89). -/
theorem qosBad_eq_true_iff (t : PacketType) (f : Nibble) : qosBad t f = true ↔ t = .publish ∧ qosField f = 3 := by
  simp [qosBad]

/-- Past gate 2 the table is undefined at Publish only, so gate 3 is a comparison for every other type (R84). -/
theorem flagsBad_eq_true_iff_of_ne_reserved {t : PacketType} (hres : t ≠ .reserved) (f : Nibble) :
    flagsBad t f = true ↔ t ≠ .publish ∧ reservedFlags t ≠ some f := by
  by_cases hpub : t = .publish
  · simp [hpub, flagsBad_eq_false_of_publish]
  · simp [flagsBad_eq_true_iff, reservedFlags_of_ne_reserved_of_ne_publish hres hpub, hpub]

/-! ### Byte 0 at Level F -/

/-- Everything gates 2 to 4 can answer at Level F, beside the same gate at Level H (R110, R111, R112, R125). -/
theorem parseByte0_cases (b : Byte) :
    (decodeType b = .reserved ∧ parseByte0 b = .error .reservedTypeUsed) ∨
      (decodeType b ≠ .reserved ∧ ∃ e, reservedFlags (decodeType b) = some e ∧ e ≠ flagsField b ∧
        parseByte0 b = .error (.invalidFlags (e.setWidth 8) ((flagsField b).setWidth 8))) ∨
      (decodeType b = .publish ∧ qosField (flagsField b) = 3 ∧ parseByte0 b = .error (.invalidQos 3)) ∨
      (decodeType b ≠ .reserved ∧ flagsBad (decodeType b) (flagsField b) = false ∧
        qosBad (decodeType b) (flagsField b) = false ∧
        ∃ pf, parseByte0 b = .ok (decodeType b, flagsField b, pf)) := by
  cases hrf : reservedFlags (decodeType b) with
  | some e =>
    have hparse := parseByte0_of_required hrf
    have hres : decodeType b ≠ .reserved := fun ht => by rw [ht] at hrf; cases hrf
    have hpub : decodeType b ≠ .publish := fun ht => by rw [ht] at hrf; cases hrf
    by_cases hf : flagsField b = e
    · rw [if_pos hf] at hparse
      exact .inr (.inr (.inr ⟨hres, by simp [flagsBad, hrf, hf], by simp [qosBad, hpub], _, hparse⟩))
    · rw [if_neg hf] at hparse
      exact .inr (.inl ⟨hres, e, rfl, Ne.symm hf, hparse⟩)
  | none =>
    rcases (reservedFlags_eq_none_iff _).mp hrf with hres | hpub
    · exact .inl ⟨hres, parseByte0_of_reserved hres⟩
    · have hparse := parseByte0_of_publish hpub
      by_cases hq : qosField (flagsField b) = 3
      · rw [if_pos hq] at hparse
        exact .inr (.inr (.inl ⟨hpub, hq, hparse⟩))
      · rw [if_neg hq] at hparse
        have hgood : qosBad (decodeType b) (flagsField b) = false :=
          Bool.eq_false_iff.mpr ((qosBad_eq_true_iff _ _).not.mpr fun ⟨_, hbad⟩ => hq hbad)
        exact .inr (.inr (.inr ⟨by simp [hpub], by simp [flagsBad, hrf], hgood, _, hpub ▸ hparse⟩))

theorem parseByte0_eq_reservedTypeUsed_iff (b : Byte) :
    parseByte0 b = .error .reservedTypeUsed ↔ decodeType b = .reserved := by
  rcases parseByte0_cases b with ⟨hres, h⟩ | ⟨hres, e, -, -, h⟩ | ⟨hpub, -, h⟩ | ⟨hres, -, -, pf, h⟩
  · simp [h, hres]
  · simp [h, hres]
  · simp [h, hpub]
  · simp [h, hres]

theorem parseByte0_eq_invalidFlags_iff (b e f : Byte) :
    parseByte0 b = .error (.invalidFlags e f) ↔
      ∃ rf, reservedFlags (decodeType b) = some rf ∧ rf ≠ flagsField b ∧ e = rf.setWidth 8 ∧
        f = (flagsField b).setWidth 8 := by
  rcases parseByte0_cases b with ⟨hres, h⟩ | ⟨-, rf, hrf, hne, h⟩ | ⟨hpub, -, h⟩ | ⟨-, hgood, -, pf, h⟩
  · simp [h, hres, reservedFlags]
  · simp [h, hrf, hne, eq_comm]
  · simp [h, hpub, reservedFlags]
  · have hnone := (flagsBad_eq_true_iff (decodeType b) (flagsField b)).not.mp (Bool.eq_false_iff.mp hgood)
    rw [h]
    exact iff_of_false nofun fun ⟨rf, hrf, hne, _⟩ => hnone ⟨rf, hrf, hne⟩

theorem parseByte0_eq_invalidQos_iff (b : Byte) (q : BitVec 2) :
    parseByte0 b = .error (.invalidQos q) ↔ (decodeType b = .publish ∧ qosField (flagsField b) = 3) ∧ q = 3 := by
  rcases parseByte0_cases b with ⟨hres, h⟩ | ⟨-, rf, hrf, -, h⟩ | ⟨hpub, hq, h⟩ | ⟨-, -, hgood, pf, h⟩
  · simp [h, hres]
  · have hpub : decodeType b ≠ .publish := fun ht => by rw [ht] at hrf; cases hrf
    simp [h, hpub]
  · simp [h, hpub, hq, eq_comm]
  · have hnot := (qosBad_eq_true_iff (decodeType b) (flagsField b)).not.mp (Bool.eq_false_iff.mp hgood)
    rw [h]
    exact iff_of_false nofun fun ⟨hbad, _⟩ => hnot hbad

/-- The four bytes of gate 4 (R112). -/
theorem publish_with_qos_three_iff (b : Byte) :
    decodeType b = .publish ∧ qosField (flagsField b) = 3 ↔ b ∈ ([0x36, 0x37, 0x3E, 0x3F] : List Byte) := by
  revert b
  decide

theorem type_and_flags_of_parseByte0_ok {b : Byte} {t : PacketType} {f : Nibble} {pf : Option PublishFlags}
    (h : parseByte0 b = .ok (t, f, pf)) : t = decodeType b ∧ f = flagsField b := by
  rcases parseByte0_cases b with ⟨-, h'⟩ | ⟨-, e, -, -, h'⟩ | ⟨-, -, h'⟩ | ⟨-, -, -, pf', h'⟩ <;> cases h.symm.trans h'
  exact ⟨rfl, rfl⟩

/-! ### The two levels agree on byte 0 -/

/-- A byte 0 that Level F accepts goes on to the length at Level H (R125). -/
theorem byteInType_of_parseByte0_ok {b : Byte} {x : PacketType × Nibble × Option PublishFlags}
    (h : parseByte0 b = .ok x) (s : State) :
    byteInType b s = expectLength (setHeader (typeField b) (flagsField b) s) := by
  rcases parseByte0_cases b with ⟨-, h'⟩ | ⟨-, e, -, -, h'⟩ | ⟨-, -, h'⟩ | ⟨hres, hflags, hqos, pf, -⟩
  · cases h.symm.trans h'
  · cases h.symm.trans h'
  · cases h.symm.trans h'
  · simp [byteInType, hres, hflags, hqos]

/-- A byte 0 that Level F rejects raises the same error at Level H (R125). -/
theorem byteInType_of_parseByte0_error {b : Byte} {e : ParseError} (h : parseByte0 b = .error e) (s : State) :
    byteInType b s = raise (errorStatus e) (setHeader (typeField b) (flagsField b) s) := by
  rcases parseByte0_cases b with ⟨hres, h'⟩ | ⟨hres, rf, hrf, hne, h'⟩ | ⟨hpub, hq, h'⟩ | ⟨-, -, -, pf, h'⟩ <;>
    cases h.symm.trans h'
  · simp [byteInType, hres, errorStatus]
  · have hbad : flagsBad (decodeType b) (flagsField b) = true := (flagsBad_eq_true_iff _ _).mpr ⟨rf, hrf, hne⟩
    simp [byteInType, hres, hbad, errorStatus]
  · have hbad : qosBad .publish (flagsField b) = true := (qosBad_eq_true_iff _ _).mpr ⟨rfl, hq⟩
    simp [byteInType, hpub, flagsBad_eq_false_of_publish, hbad, errorStatus]

/-! ### The errors of `parse` -/

/-- The length decoder has three errors of its own (R93, R94, R97). -/
theorem decodeRemainingLength_error_cases {bytes : Buffer} {e : ParseError}
    (h : decodeRemainingLength bytes = .error e) :
    e = .malformedRemainingLength ∨ e = .truncatedInput ∨ e = .nonMinimalEncoding := by
  by_contra hne
  obtain ⟨hmal, htrunc, hpad⟩ : e ≠ .malformedRemainingLength ∧ e ≠ .truncatedInput ∧ e ≠ .nonMinimalEncoding := by
    simpa using hne
  obtain ⟨n, -, -, -, hend⟩ :=
    (decodeRemainingLength_eq_iff_endOfField (by simpa using hmal) (by simpa using htrunc) bytes).mp h
  obtain ⟨-, heq⟩ := (endOfField_eq_error_iff _ _).mp hend
  exact hpad heq

/-- An error that is none of the length decoder's comes from byte 0 alone (R108, R142). -/
theorem parse_cons_eq_error_iff {e : ParseError} (b : Byte) (rest : Buffer) (hmal : e ≠ .malformedRemainingLength)
    (htrunc : e ≠ .truncatedInput) (hpad : e ≠ .nonMinimalEncoding) :
    parse (b :: rest) = .error e ↔ parseByte0 b = .error e := by
  cases hb : parseByte0 b with
  | error e' => simp [parse_cons_of_error hb]
  | ok x =>
    obtain ⟨t, f, pf⟩ := x
    rw [parse_cons_of_ok hb]
    cases hl : decodeRemainingLength rest with
    | ok rl => simp [Except.map]
    | error e' =>
      have hcases := decodeRemainingLength_error_cases hl
      refine iff_of_false (fun h => ?_) nofun
      cases h
      simp [hmal, htrunc, hpad] at hcases

/-- The one-byte zero is properly ended and minimal (R116). -/
theorem decodeRemainingLength_zero_cons (rest : Buffer) :
    decodeRemainingLength (0 :: rest) = .ok { value := 0, encoded_byte_count := 1, raw_bytes := [0] } := by
  rw [decodeRemainingLength_eq_scan]
  rfl

/-! ### The phase after a step -/

theorem step_answers (s : State) : ∃ t, step s = .next t := by
  rcases step_cases s with ⟨-, h⟩ | ⟨-, h⟩ | ⟨m, -, h⟩ | ⟨-, -, h⟩ | ⟨-, -, h⟩ | ⟨b, -, -, h⟩ | ⟨b, -, -, h⟩ |
    ⟨b, -, -, h⟩ <;> exact ⟨_, h⟩

theorem step_of_nop {s : State} (h : (present s).command = some .nop) : step s = .next (advance s) := step_of_command h

theorem step_of_byte_in_type {s : State} {b : Byte} (h : (present s).command = some (.byte b)) (hp : s.r_ph = .type) :
    step s = .next (byteInType b (advance s)) := (step_of_command h).trans (exec_byte_of_type b hp)

theorem step_of_byte_in_len {s : State} {b : Byte} (h : (present s).command = some (.byte b)) (hp : s.r_ph = .len) :
    step s = .next (byteInLen b (advance s)) := (step_of_command h).trans (exec_byte_of_len b hp)

theorem step_of_byte_in_done {s : State} {b : Byte} (h : (present s).command = some (.byte b)) (hp : s.r_ph = .done) :
    step s = .next (advance s) := (step_of_command h).trans (exec_byte_of_done b hp)

/-- A length byte goes on only with its continuation bit set and an index left (R120). -/
theorem byteInLen_r_ph_r_idx {s : State} (b : Byte) (hp : s.r_ph = .len) :
    if contField b = true ∧ s.r_idx.toNat < 3 then
      (byteInLen b s).r_ph = .len ∧ (byteInLen b s).r_idx = s.r_idx + 1
    else (byteInLen b s).r_ph = .done := by
  rcases byteInLen_cases b s with ⟨hc, hi, h⟩ | ⟨hc, hi, h⟩ | ⟨hc, -, -, h⟩ | ⟨hc, -, h⟩
  · simp [h, hc, hi, hp]
  · simp [h, hc, hi]
  · simp [h, hc]
  · simp [h, hc]

/-- END leaves no call open (R127). -/
theorem exec_end_r_ph {s t : State} (h : exec .endOfBuffer s = .next t) : t.r_ph = .done := by
  by_cases hp : s.r_ph = .done
  · cases (exec_end_of_done hp).symm.trans h
    exact hp
  · cases (exec_end_of_open hp).symm.trans h
    rfl

/-! ### The statements -/

/-- Settles O3: the meaning of NOP is the same state. -/
theorem nopChangesNoRegister : Obligations.NopChangesNoRegister := by
  unfold Obligations.NopChangesNoRegister
  exact exec_nop

/-- Settles O8: `exec` answers a BYTE in phase DONE with the same state. -/
theorem byteInDonePhaseIsIgnored : Obligations.ByteInDonePhaseIsIgnored := by
  unfold Obligations.ByteInDonePhaseIsIgnored
  exact fun b _ => exec_byte_of_done b

/-- Settles O5, by whether a call is open. -/
theorem endReportsTruncationOfAnOpenCall : Obligations.EndReportsTruncationOfAnOpenCall := by
  unfold Obligations.EndReportsTruncationOfAnOpenCall
  exact fun _ => ⟨exec_end_of_open, exec_end_of_done⟩

/-- Settles O4: START is `openCall`, which leaves no call ended and does not depend on the registers it finds. -/
theorem startOpensAFreshCall : Obligations.StartOpensAFreshCall := by
  unfold Obligations.StartOpensAFreshCall
  intro m s
  refine ⟨openCall m s, exec_start m s, ?_, ports_of_ne_done (openCall_r_ph_ne_done m s), fun m' u hu => ?_⟩
  · cases m <;> rfl
  · cases (exec_start m' s).symm.trans hu
    rw [exec_start, openCall_openCall]

/-- Settles O6: BYTE in phase TYPE tests its gates in the order of the rule, so each test is compared with its own. -/
theorem byteInTypePhaseRunsTheThreeGates : Obligations.ByteInTypePhaseRunsTheThreeGates := by
  unfold Obligations.ByteInTypePhaseRunsTheThreeGates
  intro b s hp
  have hreserved : decodeType b = .reserved ↔ typeField b = 0 := (typeField_eq_code_iff b .reserved).symm
  have hpublish : decodeType b = .publish ↔ typeField b = 3 := (typeField_eq_code_iff b .publish).symm
  refine (exec_byte_of_type b hp).trans (congrArg Host.Outcome.next ?_)
  refine ite_congr (propext hreserved) (fun _ => rfl) fun hne => ?gate3
  have hgate3 := flagsBad_eq_true_iff_of_ne_reserved (hreserved.not.mpr hne) (flagsField b)
  have hgate4 := qosBad_eq_true_iff (decodeType b) (flagsField b)
  rw [Ne, hpublish] at hgate3
  rw [hpublish, qosField_flagsField] at hgate4
  exact ite_congr (propext hgate3) (fun _ => rfl) fun _ => ite_congr (propext hgate4) (fun _ => rfl) fun _ => rfl

/-- Settles O47: the three errors are none of the length decoder's, so byte 0 alone decides them. -/
theorem byteZeroGatesComeFirst : Obligations.ByteZeroGatesComeFirst := by
  unfold Obligations.ByteZeroGatesComeFirst
  refine ⟨rfl, fun b rest => ⟨?_, fun e f => ?_, fun q => ?_⟩⟩
  · rw [parse_cons_eq_error_iff b rest (by simp) (by simp) (by simp), parseByte0_eq_reservedTypeUsed_iff]
    exact (typeField_eq_code_iff b .reserved).symm
  · rw [parse_cons_eq_error_iff b rest (by simp) (by simp) (by simp)]
    exact parseByte0_eq_invalidFlags_iff b e f
  · rw [parse_cons_eq_error_iff b rest (by simp) (by simp) (by simp), parseByte0_eq_invalidQos_iff,
      publish_with_qos_three_iff]

/-- Settles O48: an accepted byte 0 gives its own type and nibble, and `parse` goes on with the length. -/
theorem acceptedByteZeroHandsOverToTheLength : Obligations.AcceptedByteZeroHandsOverToTheLength := by
  unfold Obligations.AcceptedByteZeroHandsOverToTheLength
  intro b rest t f pf h
  obtain ⟨ht, hf⟩ := type_and_flags_of_parseByte0_ok h
  subst hf
  exact ⟨ht, rfl, parse_cons_of_ok h rest⟩

/-- Settles O50: after an accepted byte 0 the length decides, and it accepts the one-byte zero. -/
theorem zeroLengthIsNeverRejected : Obligations.ZeroLengthIsNeverRejected := by
  unfold Obligations.ZeroLengthIsNeverRejected
  rintro b rest ⟨⟨t, f, pf⟩, h⟩
  obtain ⟨ht, -⟩ := type_and_flags_of_parseByte0_ok h
  have hparse := parse_cons_of_ok h (0 :: rest)
  rw [decodeRemainingLength_zero_cons] at hparse
  exact ⟨_, hparse, ht, rfl⟩

/-- Settles O22, one command at a time; in phase TYPE the two levels agree on byte 0. -/
theorem phaseTransitionsAreTheTable : Obligations.PhaseTransitionsAreTheTable := by
  unfold Obligations.PhaseTransitionsAreTheTable
  intro s
  obtain ⟨t, ht⟩ := step_answers s
  refine ⟨t, ht, ?parse, fun h => ?rldec, fun h => ?nop, fun b h hp => ?byteInType, fun b h hp => ?byteInLen,
    fun b h hp => ?byteInDone, fun h => ?endOfBuffer⟩
  case parse =>
    rintro (h | h)
    · rw [step_next_unique ht (step_of_reset h), resetRegisters_r_ph]
    · rw [step_next_unique ht (step_of_start h), openCall_parse_r_ph]
  case rldec => rw [step_next_unique ht (step_of_start h), openCall_rldec_r_ph]
  case nop => rw [step_next_unique ht (step_of_nop h), advance_r_ph]
  case byteInType =>
    rw [step_next_unique ht (step_of_byte_in_type h hp)]
    cases hb : parseByte0 b with
    | ok x => rw [byteInType_of_parseByte0_ok hb, expectLength_r_ph]
    | error e => rw [byteInType_of_parseByte0_error hb, raise_r_ph]
  case byteInLen =>
    rw [step_next_unique ht (step_of_byte_in_len h hp)]
    exact byteInLen_r_ph_r_idx (s := advance s) b hp
  case byteInDone => rw [step_next_unique ht (step_of_byte_in_done h hp), advance_r_ph, hp]
  case endOfBuffer => exact exec_end_r_ph ((step_of_command h).symm.trans ht)

end Sys2Proof.Machine
end

section
/-! PROOFS. Reset (`70_reset_and_hazards.md`). -/

namespace Sys2Proof.Machine

/-- Reset and START PARSE open the same call (R153). -/
theorem resetRegisters_eq_openCall_parse (s : State) : resetRegisters s = openCall .parse s := rfl

/-- Settles O1: a reset cycle opens a PARSE call, as START PARSE does, and a call just opened shows nothing on its ports. -/
theorem resetCycleLoadsTheResetValues : Obligations.ResetCycleLoadsTheResetValues := by
  unfold Obligations.ResetCycleLoadsTheResetValues
  intro s hrst
  have hstep : step s = .next (openCall .parse (advance s)) := by
    rw [step_of_reset hrst, resetRegisters_eq_openCall_parse]
  refine ⟨hstep, hstep.trans (exec_start .parse (advance s)).symm, fun t ht => ?_⟩
  rw [step_next_unique ht hstep]
  exact ports_of_ne_done (openCall_r_ph_ne_done .parse (advance s))

end Sys2Proof.Machine
end

section
/-! PROOFS. The register invariant (`10_state.md` section 3): what raising an error needs, a call just opened, byte 0
and a length byte, and from these that the invariant holds at reset and after every step. -/

namespace Sys2Proof.Machine

/-! ### Updates the invariant does not look at -/

/-- The invariant says nothing of the pins. -/
theorem RegInv.advance {s : State} (h : RegInv s) : RegInv (advance s) :=
  ⟨h.typeFresh, h.statusOpen, h.rldecHeader, h.lenSoFar, h.accBound, h.accepted, h.okRecord, h.gateErrors,
    h.lengthErrors, h.neverTooLarge⟩

/-! ### The beginning and the end of a call -/

/-- A call just opened has consumed nothing (R123). -/
theorem regInv_openCall (m : Mode) (s : State) : RegInv (openCall m s) where
  typeFresh := fun hp => by cases m with
    | parse => exact ⟨rfl, rfl, rfl, rfl, rfl, rfl⟩
    | rldec => cases hp
  statusOpen := fun _ => rfl
  rldecHeader := fun _ => ⟨rfl, rfl⟩
  lenSoFar := fun _ => ⟨Nat.one_pos, Nat.one_pos, nofun, rfl⟩
  accBound := Nat.zero_le _
  accepted := fun hmode hor => by
    obtain rfl : m = .parse := hmode
    rcases hor with hp | ⟨hp, -⟩ <;> cases hp
  okRecord := fun hp => absurd hp (openCall_r_ph_ne_done m s)
  gateErrors := ⟨nofun, nofun, nofun⟩
  lengthErrors := ⟨nofun, nofun⟩
  neverTooLarge := nofun

/-- What the registers must show for the outcome `e` to be raised (R93, R97, R133, R134, R135). -/
def RaiseAllowed (s : State) : Status → Prop
  | .truncatedInput => True
  | .reservedTypeUsed => s.r_mode = .parse ∧ PacketType.ofCode s.r_type = .reserved
  | .invalidFlags => s.r_mode = .parse ∧ flagsBad (PacketType.ofCode s.r_type) s.r_flags = true
  | .invalidQos => s.r_mode = .parse ∧ qosBad (PacketType.ofCode s.r_type) s.r_flags = true
  | .malformedRemainingLength => (s.r_mode = .parse → HeaderAccepted s) ∧ s.r_idx = 3
  | .nonMinimalEncoding => (s.r_mode = .parse → HeaderAccepted s) ∧ s.r_idx ≠ 0
  | .ok | .valueTooLarge => False

/-- In phase DONE with an error the invariant asks for no more than the two bounds and the reason of the error. -/
theorem regInv_raise {s : State} {e : Status} (hrldec : s.r_mode = .rldec → s.r_type = 0 ∧ s.r_flags = 0)
    (hacc : s.r_acc.toNat ≤ Config.rlValueMax) (he : RaiseAllowed s e) : RegInv (raise e s) where
  typeFresh := nofun
  statusOpen := (absurd rfl ·)
  rldecHeader := hrldec
  lenSoFar := nofun
  accBound := hacc
  accepted := fun hmode hor => by
    rcases hor with hp | ⟨-, hok | hmal | hpad⟩
    · cases hp
    · obtain rfl : e = .ok := hok
      exact he.elim
    · obtain rfl : e = .malformedRemainingLength := hmal
      exact he.1 hmode
    · obtain rfl : e = .nonMinimalEncoding := hpad
      exact he.1 hmode
  okRecord := fun _ (hok : e = .ok) => by
    subst hok
    exact he.elim
  gateErrors := ⟨fun (heq : e = _) => by subst heq; exact he, fun (heq : e = _) => by subst heq; exact he,
    fun (heq : e = _) => by subst heq; exact he⟩
  lengthErrors := ⟨fun (heq : e = _) => by subst heq; exact he.2, fun (heq : e = _) => by subst heq; exact he.2⟩
  neverTooLarge := fun (heq : e = _) => by subst heq; exact he

/-! ### Byte 0 -/

section
variable {s : State} (h : RegInv s) (hp : s.r_ph = .type)
include h hp

/-- An accepted byte 0 leaves the length registers fresh (R125). -/
theorem RegInv.expectLength {t f : Nibble} (haccepted : HeaderAccepted (setHeader t f s)) :
    RegInv (expectLength (setHeader t f s)) := by
  obtain ⟨hmode, -, -, hidx, hacc, hraw⟩ := h.typeFresh hp
  have hstatus := h.statusOpen (by simp [hp])
  constructor
  case lenSoFar => simp [hidx, hacc, hraw, lowBytes, spelledValue]
  case accBound => exact h.accBound
  case accepted => exact fun _ _ => haccepted
  all_goals simp [hmode, hstatus]

theorem RegInv.byteInType (b : Byte) : RegInv (byteInType b s) := by
  obtain ⟨hmode, -⟩ := h.typeFresh hp
  rcases byteInType_cases b s with ⟨hres, heq⟩ | ⟨-, hflags, heq⟩ | ⟨-, -, hqos, heq⟩ | ⟨hres, hflags, hqos, heq⟩
  · rw [heq]
    exact regInv_raise (by simp [hmode]) h.accBound ⟨hmode, hres⟩
  · rw [heq]
    exact regInv_raise (by simp [hmode]) h.accBound ⟨hmode, hflags⟩
  · rw [heq]
    exact regInv_raise (by simp [hmode]) h.accBound ⟨hmode, hqos⟩
  · rw [heq]
    exact h.expectLength hp ⟨hres, hflags, hqos⟩

end

/-! ### A length byte -/

section
variable {s : State} (h : RegInv s) (hp : s.r_ph = .len) (b : Byte)
include h hp

/-- `r_acc` stays below the next power of 128 (R21, R101). -/
theorem RegInv.addDigit_lt : (addDigit s.r_acc (digitField b) s.r_idx).toNat < 128 ^ (s.r_idx.toNat + 1) := by
  obtain ⟨hacc, -⟩ := h.lenSoFar hp
  have hle : (digitField b).toNat * 128 ^ s.r_idx.toNat ≤ 127 * 128 ^ s.r_idx.toNat :=
    Nat.mul_le_mul_right _ (Nat.le_of_lt_succ (digitField b).isLt)
  rw [addDigit_toNat _ hacc, pow_succ]
  omega

theorem RegInv.addDigit_le : (addDigit s.r_acc (digitField b) s.r_idx).toNat ≤ Config.rlValueMax :=
  Nat.le_of_lt_succ ((h.addDigit_lt hp b).trans_le
    (Nat.pow_le_pow_right (by decide) s.r_idx.isLt : 128 ^ (s.r_idx.toNat + 1) ≤ 128 ^ 4))

/-- A byte that goes on is one more byte of the field so far (R102). -/
theorem RegInv.nextLengthByte (hcont : contField b = true) (hidx : s.r_idx.toNat < 3) :
    RegInv (nextLengthByte (takeLengthByte b s)) := by
  obtain ⟨hacc, hraw, hconts, hspell⟩ := h.lenSoFar hp
  have hnext : (s.r_idx + 1).toNat = s.r_idx.toNat + 1 := by
    rw [BitVec.toNat_add]; exact Nat.mod_eq_of_lt (by simp; omega)
  have hstatus := h.statusOpen (by simp [hp])
  constructor
  case lenSoFar =>
    intro _
    simp only [nextLengthByte_r_acc, nextLengthByte_r_raw, nextLengthByte_r_idx, takeLengthByte_r_acc,
      takeLengthByte_r_raw, takeLengthByte_r_idx, hnext, lowBytes_putByte b hraw]
    refine ⟨h.addDigit_lt hp b, putByte_toNat_lt b hraw, ?_, ?_⟩
    · simpa [or_imp, forall_and, hcont] using hconts
    · rw [spelledValue_append_singleton, hspell, length_lowBytes, addDigit_toNat _ hacc, digitField_toNat]
  case rldecHeader => exact h.rldecHeader
  case accBound => exact h.addDigit_le hp b
  case accepted => exact fun hmode _ => h.accepted hmode (.inl hp)
  all_goals simp [hp, hstatus]

/-- After an unpadded terminal byte the registers hold a record (R102). -/
theorem RegInv.succeed (hterm : contField b = false) (hunpadded : ¬ (1 ≤ s.r_idx.toNat ∧ digitField b = 0)) :
    RegInv (succeed (takeLengthByte b s)) := by
  obtain ⟨-, hraw, -⟩ := h.lenSoFar hp
  have hidx : s.r_idx.toNat < 4 := s.r_idx.isLt
  constructor
  case okRecord =>
    exact fun _ _ => ⟨wellFormed_of_endOfField (properlyEnded_lowBytes_append h hp hterm) (by simp; omega)
      (endOfField_eq_ok_lengthRecord h hp hterm hunpadded), putByte_toNat_lt b hraw⟩
  case rldecHeader => exact h.rldecHeader
  case accBound => exact h.addDigit_le hp b
  case accepted => exact fun hmode _ => h.accepted hmode (.inl hp)
  all_goals simp

theorem RegInv.byteInLen : RegInv (byteInLen b s) := by
  have haccepted : (takeLengthByte b s).r_mode = .parse → HeaderAccepted (takeLengthByte b s) :=
    fun hmode => h.accepted hmode (.inl hp)
  rcases byteInLen_cases b s with ⟨hcont, hidx, heq⟩ | ⟨-, hidx, heq⟩ | ⟨-, hidx, -, heq⟩ | ⟨hterm, hor, heq⟩
  · rw [heq]
    exact h.nextLengthByte hp b hcont hidx
  · rw [heq]
    exact regInv_raise h.rldecHeader (h.addDigit_le hp b) ⟨haccepted, BitVec.eq_of_toNat_eq hidx⟩
  · have hne : s.r_idx ≠ 0 := fun hzero => by simp [hzero] at hidx
    rw [heq]
    exact regInv_raise h.rldecHeader (h.addDigit_le hp b) ⟨haccepted, hne⟩
  · rw [heq]
    exact h.succeed hp b hterm fun ⟨hidx, hd⟩ => hor.elim (Nat.ne_zero_of_lt hidx) (absurd hd)

end

/-! ### The statements -/

/-- Settles O28: the reset state is a call just opened. -/
theorem resetMeetsTheRegisterInvariant : Obligations.ResetMeetsTheRegisterInvariant := by
  unfold Obligations.ResetMeetsTheRegisterInvariant
  exact regInv_openCall .parse State.reset

/-- Settles O29, by the cases of a step: an opened call meets the invariant, and each operation keeps it. -/
theorem everyStepKeepsTheRegisterInvariant : Obligations.EveryStepKeepsTheRegisterInvariant := by
  unfold Obligations.EveryStepKeepsTheRegisterInvariant
  intro s t hinv h
  by_cases hopen : OpensCall (present s)
  · obtain ⟨m, hs⟩ := step_of_opensCall hopen
    rw [step_next_unique h hs]
    exact regInv_openCall m (advance s)
  · rcases step_cases_of_not_opensCall h hopen with ⟨-, rfl⟩ | ⟨-, -, rfl⟩ | ⟨b, -, hp, rfl⟩ | ⟨b, -, hp, rfl⟩
    · exact hinv.advance
    · exact regInv_raise hinv.rldecHeader hinv.accBound trivial
    · exact hinv.advance.byteInType hp b
    · exact hinv.advance.byteInLen hp b

end Sys2Proof.Machine
end

section
/-! PROOFS. The remaining-length codec (`43_remaining_length.md` R92, R98, R105, R107): how a scan depends on the bytes
after its last one, the hardware's test for padding, the two round trips, and the ports of the encoder unit. -/

namespace Sys2Proof.Machine

/-! ### Bytes after the field -/

/-- A scan that is not truncated does not see what follows (R92). -/
theorem scanLength_append {left : Nat} {pre rest : List Byte} (h : scanLength left pre rest ≠ .error .truncatedInput)
    (more : List Byte) : scanLength left pre (rest ++ more) = scanLength left pre rest := by
  induction left generalizing pre rest with
  | zero => rfl
  | succ left ih =>
    cases rest with
    | nil => exact absurd rfl h
    | cons b rest =>
      rw [List.cons_append, scanLength, scanLength]
      rw [scanLength] at h
      split
      case isTrue hb => exact ih (by rwa [if_pos hb] at h)
      case isFalse => rfl

/-- A scan reads no byte after the last one counted. -/
theorem scanLength_take_of_le {left k : Nat} {rest : List Byte} (pre : List Byte) (h : lengthBytesRead left rest ≤ k)
    (hfull : scanLength left pre rest ≠ .error .truncatedInput) :
    scanLength left pre (rest.take k) = scanLength left pre rest := by
  induction left generalizing pre rest k with
  | zero => rfl
  | succ left ih =>
    cases rest with
    | nil => exact absurd rfl hfull
    | cons b rest =>
      rw [scanLength] at hfull
      rw [lengthBytesRead] at h
      cases k with
      | zero => split at h <;> omega
      | succ k =>
        rw [List.take_succ_cons, scanLength, scanLength]
        split
        case isTrue hb =>
          rw [if_pos hb] at h hfull
          exact ih _ (by omega) hfull
        case isFalse => rfl

/-- Short of the last byte counted a scan is truncated. -/
theorem scanLength_take_of_lt {left k : Nat} {rest : List Byte} (pre : List Byte) (h : k < lengthBytesRead left rest) :
    scanLength left pre (rest.take k) = .error .truncatedInput := by
  induction left generalizing pre rest k with
  | zero => simp [lengthBytesRead] at h
  | succ left ih =>
    cases rest with
    | nil => simp [lengthBytesRead] at h
    | cons b rest =>
      cases k with
      | zero => rfl
      | succ k =>
        rw [lengthBytesRead] at h
        split at h
        case isTrue hb =>
          rw [List.take_succ_cons, scanLength, if_pos hb]
          exact ih _ (by omega)
        case isFalse => omega

theorem lengthBytesRead_le (max : Nat) (rest : List Byte) : lengthBytesRead max rest ≤ max := by
  induction max generalizing rest with
  | zero => simp [lengthBytesRead]
  | succ max ih =>
    cases rest with
    | nil => simp [lengthBytesRead]
    | cons b rest =>
      have := ih rest
      rw [lengthBytesRead]
      split <;> omega

theorem lengthBytesRead_le_length (max : Nat) (rest : List Byte) : lengthBytesRead max rest ≤ rest.length := by
  induction max generalizing rest with
  | zero => simp [lengthBytesRead]
  | succ max ih =>
    cases rest with
    | nil => simp [lengthBytesRead]
    | cons b rest =>
      have := ih rest
      rw [lengthBytesRead, List.length_cons]
      split <;> omega

theorem decodeRemainingLength_append {bytes : Buffer} (h : decodeRemainingLength bytes ≠ .error .truncatedInput)
    (more : Buffer) : decodeRemainingLength (bytes ++ more) = decodeRemainingLength bytes := by
  rw [decodeRemainingLength_eq_scan] at h
  rw [decodeRemainingLength_eq_scan, decodeRemainingLength_eq_scan, scanLength_append h]

theorem decodeRemainingLength_take_of_le {bytes : Buffer} {k : Nat} (h : lengthBytesRead 4 bytes ≤ k)
    (hfull : decodeRemainingLength bytes ≠ .error .truncatedInput) :
    decodeRemainingLength (bytes.take k) = decodeRemainingLength bytes := by
  rw [decodeRemainingLength_eq_scan] at hfull
  rw [decodeRemainingLength_eq_scan, decodeRemainingLength_eq_scan, scanLength_take_of_le [] h hfull]

theorem decodeRemainingLength_take_of_lt {bytes : Buffer} {k : Nat} (h : k < lengthBytesRead 4 bytes) :
    decodeRemainingLength (bytes.take k) = .error .truncatedInput := by
  rw [decodeRemainingLength_eq_scan]
  exact scanLength_take_of_lt [] h

/-! ### Padding -/

theorem properlyEnded_append_singleton_terminal {pre : List Byte} {b : Byte} (h : properlyEnded (pre ++ [b]) = true) :
    contField b = false := by
  induction pre with
  | nil => simpa [properlyEnded_cons, properlyEnded] using h
  | cons a pre ih =>
    rw [List.cons_append, properlyEnded_cons] at h
    split at h
    · exact ih h
    · simp at h

/-- A terminal byte is its digit. -/
theorem digitField_eq_zero_iff {b : Byte} (h : contField b = false) : digitField b = 0 ↔ b = 0 := by
  revert b; decide

/-! ### The round trips -/

/-- In a properly ended field exactly the last byte does not go on (R48). -/
theorem contField_of_properlyEnded_cons {b : Byte} {rest : List Byte} (h : properlyEnded (b :: rest) = true) :
    contField b = !rest.isEmpty := by
  rw [properlyEnded_cons] at h
  split at h
  case isTrue hb =>
    cases rest with
    | nil => simp [properlyEnded] at h
    | cons => exact hb
  case isFalse hb => simpa [h] using hb

/-- A field is determined by its value and its byte count. -/
theorem eq_of_spelledValue_eq {field field' : List Byte} (h : properlyEnded field = true)
    (h' : properlyEnded field' = true) (hlen : field.length = field'.length)
    (hspell : spelledValue field = spelledValue field') : field = field' := by
  induction field generalizing field' with
  | nil => exact (List.length_eq_zero_iff.mp hlen.symm).symm
  | cons b rest ih =>
    cases field' with
    | nil => cases hlen
    | cons b' rest' =>
      have hrestlen : rest.length = rest'.length := Nat.succ.inj hlen
      have hempty : rest.isEmpty = rest'.isEmpty := by
        rw [Bool.eq_iff_iff, List.isEmpty_iff_length_eq_zero, List.isEmpty_iff_length_eq_zero, hrestlen]
      have hcont : contField b = contField b' := by
        rw [contField_of_properlyEnded_cons h, contField_of_properlyEnded_cons h', hempty]
      rw [spelledValue, spelledValue] at hspell
      have hdigit : digitField b = digitField b' :=
        BitVec.eq_of_toNat_eq (by rw [digitField_toNat, digitField_toNat]; omega)
      have hbyte : b = b' := by rw [← rlbByte_fields b, ← rlbByte_fields b', hcont, hdigit]
      rw [properlyEnded_cons] at h h'
      rw [← hbyte] at h'
      have hrest : rest = rest' := by
        split at h
        case isTrue hb => exact ih h (by rwa [if_pos hb] at h') hrestlen (by omega)
        case isFalse hb =>
          rw [if_neg hb] at h'
          rw [List.isEmpty_iff.mp h, List.isEmpty_iff.mp h']
      rw [hbyte, hrest]

theorem decodeRemainingLength_encodeDigits {v : Word} (h : v.toNat ≤ Config.rlValueMax) :
    decodeRemainingLength (encodeDigits Config.rlMaxBytes v) =
      .ok { value := v, encoded_byte_count := minlen v.toNat, raw_bytes := encodeDigits Config.rlMaxBytes v } := by
  have hlt : v.toNat < 128 ^ Config.rlMaxBytes := Nat.lt_succ_of_le h
  have hlen := length_encodeDigits (by decide) le_rfl hlt
  have hspell := spelledValue_encodeDigits (by decide) le_rfl hlt
  have hmin : minlen v.toNat ≤ 4 := (minlen_le_iff (by decide) le_rfl).mpr hlt
  refine (lengthDecodesExactlyMinimalFields _ _).mpr ⟨minlen v.toNat, hmin, hlen.ge, ?_⟩
  rw [List.take_of_length_le hlen.le, hspell]
  exact ⟨properlyEnded_encodeDigits (by decide) le_rfl hlt, rfl, rfl, rfl, rfl⟩

/-! ### The encoder unit -/

/-- Byte `i` of the `n`-byte field of `m`, by division (R103, closed form): what `encByte` reads off the bits. -/
def fieldByte (m n i : Nat) : Byte :=
  if i < n then rlbByte (if i + 1 < n then 1 else 0) (BitVec.ofNat 7 (m / 128 ^ i)) else 0

theorem encByte_eq_fieldByte (v : Word) (n i : Nat) : encByte v n i = fieldByte v.toNat n i := by
  have hdigit : v.extractLsb' (7 * i) 7 = BitVec.ofNat 7 (v.toNat / 128 ^ i) := by
    rw [BitVec.extractLsb', Nat.shiftRight_eq_div_pow, Nat.pow_mul]
  rw [encByte, fieldByte, hdigit]

theorem fieldByte_cons (d : Digit) (q n i : Nat) : fieldByte (d.toNat + 128 * q) (n + 1) (i + 1) = fieldByte q n i := by
  have hdiv : (d.toNat + 128 * q) / 128 = q := by
    have := d.isLt
    omega
  simp only [fieldByte, pow_succ', ← Nat.div_div_eq_div_mul, hdiv, Nat.add_lt_add_iff_right]

/-- The field is not empty, and its bytes are the closed form for `m`. -/
def IsFieldOf (m : Nat) (field : List Byte) : Prop :=
  0 < field.length ∧ ∀ i, field.getD i 0 = fieldByte m field.length i

theorem isFieldOf_last (d : Digit) : IsFieldOf d.toNat [rlbByte 0 d] :=
  ⟨by simp, fun i => by cases i <;> simp [fieldByte]⟩

theorem isFieldOf_cons (d : Digit) {q : Nat} {rest : List Byte} (h : IsFieldOf q rest) :
    IsFieldOf (d.toNat + 128 * q) (rlbByte 1 d :: rest) := by
  obtain ⟨hpos, hrest⟩ := h
  refine ⟨by simp, fun i => ?_⟩
  cases i with
  | zero =>
    have hd : BitVec.ofNat 7 (d.toNat + 128 * q) = d := BitVec.eq_of_toNat_eq (by simp; omega)
    simp [fieldByte, hpos, hd]
  | succ i => rw [List.getD_cons_succ, hrest, List.length_cons, fieldByte_cons]

/-- The loop of R103 emits the closed form. -/
theorem isFieldOf_encodeDigits {v : Word} (h : v.toNat ≤ Config.rlValueMax) :
    IsFieldOf v.toNat (encodeDigits Config.rlMaxBytes v) :=
  encodeDigits_induction isFieldOf_last (fun d _ _ _ _ => isFieldOf_cons d) (by decide) le_rfl (Nat.lt_succ_of_le h)

theorem byteOf_append (b3 b2 b1 b0 : Byte) {i : Nat} (hi : i < 4) :
    byteOf (b3 ++ b2 ++ b1 ++ b0) i = [b0, b1, b2, b3].getD i 0 := by
  have drop {n : Nat} (hi : BitVec n) (lo : Byte) (j : Nat) :
      (hi ++ lo).extractLsb' (j + 8) 8 = hi.extractLsb' j 8 := BitVec.extractLsb'_append_eq_of_le (by omega)
  interval_cases i
  · exact BitVec.extractLsb'_append_eq_right
  · exact (drop _ _ 0).trans BitVec.extractLsb'_append_eq_right
  · exact (drop _ _ 8).trans ((drop _ _ 0).trans BitVec.extractLsb'_append_eq_right)
  · exact (drop _ _ 16).trans ((drop _ _ 8).trans BitVec.extractLsb'_append_eq_left)

theorem rlenc_of_le {v : Word} (h : v.toNat ≤ Config.rlValueMax) :
    rlenc v =
      { enc_status := 0
        enc_count := BitVec.ofNat 3 (minlen v.toNat)
        enc_raw := encByte v (minlen v.toNat) 3 ++ encByte v (minlen v.toNat) 2 ++ encByte v (minlen v.toNat) 1 ++
          encByte v (minlen v.toNat) 0 } :=
  if_neg ((rlValueMax_lt_iff_high_bits v).not.mp (Nat.not_lt.mpr h))

theorem rlenc_of_gt {v : Word} (h : Config.rlValueMax < v.toNat) :
    rlenc v = { enc_status := 7, enc_count := 0, enc_raw := 0 } :=
  if_pos ((rlValueMax_lt_iff_high_bits v).mp h)

/-- `RLENC` shows the encoder's byte count. -/
theorem rlenc_enc_count_toNat {v : Word} (h : v.toNat ≤ Config.rlValueMax) :
    (rlenc v).enc_count.toNat = minlen v.toNat := by
  have hmin : minlen v.toNat ≤ 4 := (minlen_le_iff (by decide) le_rfl).mpr (Nat.lt_succ_of_le h)
  rw [rlenc_of_le h]
  exact Nat.mod_eq_of_lt (by omega)

/-- `RLENC` packs the encoder's bytes, the first one lowest. -/
theorem byteOf_rlenc {v : Word} (h : v.toNat ≤ Config.rlValueMax) {i : Nat} (hi : i < 4) :
    byteOf (rlenc v).enc_raw i = (encodeDigits Config.rlMaxBytes v).getD i 0 := by
  obtain ⟨-, hbytes⟩ := isFieldOf_encodeDigits h
  rw [hbytes, length_encodeDigits (by decide) le_rfl (Nat.lt_succ_of_le h), ← encByte_eq_fieldByte,
    rlenc_of_le h, byteOf_append _ _ _ _ hi]
  interval_cases i <;> rfl

/-! ### The statements -/

/-- Settles O41: a scan that comes to an end does not see the bytes after it. -/
theorem bytesAfterTheFieldAreIgnored : Obligations.BytesAfterTheFieldAreIgnored := by
  unfold Obligations.BytesAfterTheFieldAreIgnored
  exact fun _ more h => decodeRemainingLength_append h more

/-- Settles O40, by the last byte of the field, a terminal byte, which is 0 when its digit is. -/
theorem paddingIsAZeroLastByte : Obligations.PaddingIsAZeroLastByte := by
  unfold Obligations.PaddingIsAZeroLastByte
  intro field hend hmax
  rcases List.eq_nil_or_concat field with rfl | ⟨pre, b, rfl⟩
  · simp [properlyEnded] at hend
  · rw [List.concat_eq_append] at *
    have hpad := minlen_le_length_iff_padded (pre := pre) (b := b) (by simp at hmax; omega)
    rw [digitField_eq_zero_iff (properlyEnded_append_singleton_terminal hend)] at hpad
    simpa [Nat.lt_succ_iff] using hpad

/-- Settles O42: the encoder's field is properly ended, spells the value and is minimal, so the decoder accepts it. -/
theorem encodeThenDecodeIsIdentity : Obligations.EncodeThenDecodeIsIdentity := by
  unfold Obligations.EncodeThenDecodeIsIdentity
  exact fun v h => ⟨_, encodeRemainingLength_of_le h, rfl, decodeRemainingLength_encodeDigits h⟩

/-- Settles O43: an accepted field and the encoder's field of its value agree in value and byte count, so they are
equal. -/
theorem decodeThenEncodeIsIdentity : Obligations.DecodeThenEncodeIsIdentity := by
  unfold Obligations.DecodeThenEncodeIsIdentity
  intro bytes r h
  obtain ⟨n, hn, hlen, hend, hmin, hval, hcount, hraw⟩ := (lengthDecodesExactlyMinimalFields bytes r).mp h
  have hfield : (bytes.take n).length = n := List.length_take_of_le hlen
  have hlt : r.value.toNat < 128 ^ 4 := by
    rw [hval]
    exact (minlen_le_iff (by decide) le_rfl).mp (hmin.le.trans hn)
  have hdigits : encodeDigits Config.rlMaxBytes r.value = bytes.take n := by
    refine eq_of_spelledValue_eq (properlyEnded_encodeDigits (by decide) le_rfl hlt) hend ?_ ?_
    · rw [length_encodeDigits (by decide) le_rfl hlt, hval, hmin, hfield]
    · rw [spelledValue_encodeDigits (by decide) le_rfl hlt, hval]
  rw [encodeRemainingLength_of_le (Nat.le_of_lt_succ hlt), hdigits, ← hraw, hval, hmin, ← hcount]

/-- Settles O46, by whether the value is in range: there the ports hold the encoder's count and bytes. -/
theorem rlencIsTheEncoder : Obligations.RlencIsTheEncoder := by
  unfold Obligations.RlencIsTheEncoder
  intro v
  rcases Nat.lt_or_ge Config.rlValueMax v.toNat with hlarge | hle
  · rw [(encodeRemainingLength_eq_valueTooLarge_iff v).mpr hlarge]
    exact ⟨nofun, fun _ _ => rlenc_of_gt hlarge⟩
  · rw [encodeRemainingLength_of_le hle]
    refine ⟨fun r hr => ?_, nofun⟩
    cases hr
    exact ⟨by rw [rlenc_of_le hle], rlenc_enc_count_toNat hle, fun _ => byteOf_rlenc hle⟩

end Sys2Proof.Machine
end

section
/-! PROOFS. `parse` (`44_fixed_header_decoder.md` sections 1 and 2): what an accepted byte 0 is, which headers are
returned, how the result depends on the bytes of the buffer, and the count of the values of byte 0. -/

namespace Sys2Proof.Machine

/-! ### Accepted bytes 0 and returned headers -/

/-- An accepted byte 0 is a PUBLISH with a valid QoS, or carries the flags of the table (R66, R80, R115). -/
theorem parseByte0_ok_cases {b : Byte} {t : PacketType} {f : Nibble} {pf : Option PublishFlags}
    (h : parseByte0 b = .ok (t, f, pf)) :
    (t = .publish ∧ qosField f ≠ 3 ∧ pf = some (decodePublishFlags f)) ∨
      (t ≠ .reserved ∧ t ≠ .publish ∧ reservedFlags t = some f ∧ pf = none) := by
  obtain ⟨rfl, rfl⟩ := type_and_flags_of_parseByte0_ok h
  cases hrf : reservedFlags (decodeType b) with
  | some e =>
    have hres : decodeType b ≠ .reserved := fun ht => by rw [ht] at hrf; cases hrf
    have hpub : decodeType b ≠ .publish := fun ht => by rw [ht] at hrf; cases hrf
    rw [parseByte0_of_required hrf] at h
    split at h
    case isTrue hf =>
      cases h
      exact .inr ⟨hres, hpub, by rw [hf], rfl⟩
    case isFalse => cases h
  | none =>
    rcases (reservedFlags_eq_none_iff _).mp hrf with hres | hpub
    · rw [parseByte0_of_reserved hres] at h
      cases h
    · rw [parseByte0_of_publish hpub] at h
      split at h
      case isTrue => cases h
      case isFalse hq =>
        simp only [Except.ok.injEq, Prod.mk.injEq] at h
        exact .inl ⟨hpub, hq, h.2.2.symm⟩

/-- A returned header comes from an accepted byte 0 and a decoded length (R113, R114). -/
theorem exists_of_parse_eq_ok {buf : Buffer} {h : FixedHeader} (hparse : parse buf = .ok h) :
    ∃ b rest f, buf = b :: rest ∧ parseByte0 b = .ok (h.packet_type, f, h.publish_flags) ∧ h.flags = f.setWidth 8 ∧
      decodeRemainingLength rest = .ok h.remaining_length := by
  cases buf with
  | nil => cases hparse
  | cons b rest =>
    cases hb : parseByte0 b with
    | error e => cases (parse_cons_of_error hb rest).symm.trans hparse
    | ok x =>
      obtain ⟨t, f, pf⟩ := x
      rw [parse_cons_of_ok hb] at hparse
      cases hl : decodeRemainingLength rest with
      | error e =>
        rw [hl] at hparse
        cases hparse
      | ok rl =>
        rw [hl] at hparse
        cases hparse
        exact ⟨b, rest, f, rfl, hb, rfl, hl⟩

theorem wellFormed_of_decodeRemainingLength {bytes : Buffer} {r : RemainingLength}
    (h : decodeRemainingLength bytes = .ok r) : r.wellFormed = true := by
  obtain ⟨n, hn, -, hend, hfield⟩ := (decodeRemainingLength_eq_iff_endOfField (by simp) (by simp) bytes).mp h
  exact wellFormed_of_endOfField hend ((List.length_take_le n bytes).trans hn) hfield

/-! ### The deciding bytes -/

theorem parseByte0_ne_truncatedInput (b : Byte) : parseByte0 b ≠ .error .truncatedInput := by
  rcases parseByte0_cases b with ⟨-, h⟩ | ⟨-, e, -, -, h⟩ | ⟨-, -, h⟩ | ⟨-, -, -, pf, h⟩ <;> simp [h]

theorem decidingLength_cons_of_error {b : Byte} {e : ParseError} (h : parseByte0 b = .error e) (rest : Buffer) :
    decidingLength (b :: rest) = 1 := by
  simp [decidingLength, memRead, h]

theorem decidingLength_cons_of_ok {b : Byte} {x : PacketType × Nibble × Option PublishFlags} (h : parseByte0 b = .ok x)
    (rest : Buffer) : decidingLength (b :: rest) = lengthBytesRead 4 rest + 1 := by
  simp [decidingLength, memRead, h, Nat.add_comm]

/-- Behind an accepted byte 0 `parse` depends on the rest only through the decoded length. -/
theorem parse_cons_congr {b : Byte} {rest rest' : Buffer}
    (h : ∀ x, parseByte0 b = .ok x → decodeRemainingLength rest = decodeRemainingLength rest') :
    parse (b :: rest) = parse (b :: rest') := by
  cases hb : parseByte0 b with
  | error e => rw [parse_cons_of_error hb, parse_cons_of_error hb]
  | ok x =>
    obtain ⟨t, f, pf⟩ := x
    rw [parse_cons_of_ok hb, parse_cons_of_ok hb, h _ hb]

theorem parse_cons_eq_truncated_iff {b : Byte} {x : PacketType × Nibble × Option PublishFlags}
    (hb : parseByte0 b = .ok x) (rest : Buffer) :
    parse (b :: rest) = .error .truncatedInput ↔ decodeRemainingLength rest = .error .truncatedInput := by
  obtain ⟨t, f, pf⟩ := x
  rw [parse_cons_of_ok hb]
  cases decodeRemainingLength rest <;> simp [Except.map]

theorem length_lt_of_decodeRemainingLength_truncated {bytes : Buffer}
    (h : decodeRemainingLength bytes = .error .truncatedInput) : bytes.length < 4 :=
  ((malformedAndTruncatedExactly bytes).2.mp h).1

theorem decodeRemainingLength_take_four (bytes : Buffer) :
    decodeRemainingLength (bytes.take 4) = decodeRemainingLength bytes := by
  by_cases h : decodeRemainingLength bytes = .error .truncatedInput
  · rw [List.take_of_length_le (length_lt_of_decodeRemainingLength_truncated h).le]
  · exact decodeRemainingLength_take_of_le (lengthBytesRead_le 4 bytes) h

theorem parse_take_five (buf : Buffer) : parse (buf.take 5) = parse buf := by
  cases buf with
  | nil => rfl
  | cons b rest => exact parse_cons_congr fun _ _ => decodeRemainingLength_take_four rest

theorem length_le_of_parse_truncated {buf : Buffer} (h : parse buf = .error .truncatedInput) : buf.length ≤ 4 := by
  cases buf with
  | nil => simp
  | cons b rest =>
    cases hb : parseByte0 b with
    | error e =>
      rw [parse_cons_of_error hb] at h
      cases h
      exact absurd hb (parseByte0_ne_truncatedInput b)
    | ok x => exact length_lt_of_decodeRemainingLength_truncated ((parse_cons_eq_truncated_iff hb rest).mp h)

/-- Short of the deciding byte the buffer is truncated (R117). -/
theorem parse_take_of_lt {buf : Buffer} {k : Nat} (h : k < decidingLength buf) :
    parse (buf.take k) = .error .truncatedInput := by
  cases buf with
  | nil => exact absurd h (Nat.not_lt_zero k)
  | cons b rest =>
    cases k with
    | zero => rfl
    | succ k =>
      cases hb : parseByte0 b with
      | error e =>
        rw [decidingLength_cons_of_error hb] at h
        omega
      | ok x =>
        rw [decidingLength_cons_of_ok hb] at h
        exact (parse_cons_eq_truncated_iff hb _).mpr (decodeRemainingLength_take_of_lt (by omega))

section
variable {buf : Buffer} (h : parse buf ≠ .error .truncatedInput)
include h

theorem decidingLength_bounds : 1 ≤ decidingLength buf ∧ decidingLength buf ≤ 5 ∧ decidingLength buf ≤ buf.length := by
  cases buf with
  | nil => exact absurd rfl h
  | cons b rest =>
    cases hb : parseByte0 b with
    | error e => simp [decidingLength_cons_of_error hb]
    | ok x =>
      have hmax := lengthBytesRead_le 4 rest
      have hlen := lengthBytesRead_le_length 4 rest
      rw [decidingLength_cons_of_ok hb, List.length_cons]
      omega

/-- From the deciding byte on the bytes give the result of the whole buffer (R117). -/
theorem parse_take_of_le {k : Nat} (hk : decidingLength buf ≤ k) : parse (buf.take k) = parse buf := by
  cases buf with
  | nil => exact absurd rfl h
  | cons b rest =>
    obtain ⟨hpos, -⟩ := decidingLength_bounds h
    obtain ⟨k, rfl⟩ := Nat.exists_eq_succ_of_ne_zero (Nat.ne_zero_of_lt (hpos.trans hk))
    refine parse_cons_congr fun x hb => ?_
    rw [decidingLength_cons_of_ok hb] at hk
    rw [Ne, parse_cons_eq_truncated_iff hb] at h
    exact decodeRemainingLength_take_of_le (by omega) h

theorem parse_append (more : Buffer) : parse (buf ++ more) = parse buf := by
  cases buf with
  | nil => exact absurd rfl h
  | cons b rest =>
    refine parse_cons_congr fun x hb => ?_
    rw [Ne, parse_cons_eq_truncated_iff hb] at h
    exact decodeRemainingLength_append h more

end

/-! ### The statements -/

/-- Settles O49, by the two kinds of accepted byte 0; the length is a field that ended properly and minimal. -/
theorem parsedHeadersAreWellFormed : Obligations.ParsedHeadersAreWellFormed := by
  unfold Obligations.ParsedHeadersAreWellFormed
  intro buf h hparse
  obtain ⟨b, rest, f, -, hb, hflags, hl⟩ := exists_of_parse_eq_ok hparse
  have hrl := wellFormed_of_decodeRemainingLength hl
  have hnibble : h.flags.setWidth 4 = f := by rw [hflags]; simp
  have hf : h.flags.toNat < 16 := by rw [hflags]; simp; omega
  rw [hnibble]
  rcases parseByte0_ok_cases hb with ⟨hpub, hq, hpf⟩ | ⟨hres, hpub, hrf, hpf⟩
  · have hqos : (decodePublishFlags f).qos ≠ .invalid := (decodeQos_eq_invalid_iff _).not.mpr hq
    exact ⟨by simp [FixedHeader.wellFormed, FixedHeader.typeAllowed, FixedHeader.flagsInNibble,
      FixedHeader.publishFlagsIffPublish, FixedHeader.qosNotInvalid, hpub, hf, hpf, hrl, hqos], fun _ => hpf,
      absurd hpub⟩
  · exact ⟨by simp [FixedHeader.wellFormed, FixedHeader.typeAllowed, FixedHeader.flagsInNibble,
      FixedHeader.publishFlagsIffPublish, FixedHeader.qosNotInvalid, hres, hpub, hf, hpf, hrl], (absurd · hpub),
      fun _ => ⟨hpf, hrf⟩⟩

/-- Settles O51: the facts about the bytes up to the deciding one, at the deciding length itself. -/
theorem resultDependsOnTheDecidingBytes : Obligations.ResultDependsOnTheDecidingBytes := by
  unfold Obligations.ResultDependsOnTheDecidingBytes
  refine fun buf => ⟨(parse_take_five buf).symm, fun h => ?_, length_le_of_parse_truncated⟩
  obtain ⟨hpos, hfive, hlen⟩ := decidingLength_bounds h
  exact ⟨hpos, hfive, hlen, parse_take_of_le h le_rfl, parse_append h⟩

/-- Settles O36, by evaluating `parse` at the 256 buffers. -/
theorem firstByteClassesCount : Obligations.FirstByteClassesCount := by
  unfold Obligations.FirstByteClassesCount
  exact ⟨rfl, rfl, rfl, rfl⟩

end Sys2Proof.Machine
end

section
/-! PROOFS. The encoding (`30_encoding.md`): the words the decoders read come back from the instructions they give, the
instruction comes back from its word, and each word belongs to its row of the opcode table alone. -/

namespace Sys2Proof.Machine

/-! ### Words read by the decoders -/

theorem format_decodeFh0 (b : Byte) : (decodeFh0 b).format = .fh0 := by
  cases ht : decodeType b <;> simp [decodeFh0, ht, Instr.format]

/-- The word of the header row of a byte is the byte (R45). -/
theorem word_decodeFh0 (b : Byte) : (decodeFh0 b).word = b.setWidth 11 := by
  have hb := fh0Byte_fields b
  rw [typeField_eq_code] at hb
  cases ht : decodeType b <;> rw [ht] at hb <;> simp only [decodeFh0, ht, Instr.word] <;>
    exact congrArg (BitVec.setWidth 11) hb

theorem format_decodeRlb (b : Byte) : (decodeRlb b).format = .rlb := by
  cases hc : contField b <;> simp [decodeRlb, hc, Instr.format]

/-- The word of the length row of a byte is the byte (R47). -/
theorem word_decodeRlb (b : Byte) : (decodeRlb b).word = b.setWidth 11 := by
  have hb := rlbByte_fields b
  cases hc : contField b <;> rw [hc] at hb <;> simp only [decodeRlb, hc, Instr.word] <;>
    exact congrArg (BitVec.setWidth 11) hb

theorem encode_of_rlb {i : Instr} {b : Byte} (hf : i.format = .rlb) (hw : i.word = b.setWidth 11) : encode i = [b] := by
  rw [encode, hf, hw]
  simp only [BitVec.setWidth_setWidth_of_le b (show 8 ≤ 11 by decide), BitVec.setWidth_eq]

theorem encode_decodeFh0 (b : Byte) : encode (decodeFh0 b) = [b] :=
  encode_of_fh0 (format_decodeFh0 b) (word_decodeFh0 b)

theorem encode_decodeRlb (b : Byte) : encode (decodeRlb b) = [b] :=
  encode_of_rlb (format_decodeRlb b) (word_decodeRlb b)

/-! ### Command words -/

theorem exists_commandWord (w : CommandWord) : ∃ c m b, w = commandWord c m b := ⟨_, _, _, (commandWord_fields w).symm⟩

/-- All four values of `cmd` are commands (R26). -/
theorem cmd_cases (c : BitVec 2) : c = 0 ∨ c = 1 ∨ c = 2 ∨ c = 3 := by revert c; decide

section
variable (c : BitVec 2) (m : BitVec 1) (b : Byte)

theorem decodeCommand_nop : decodeCommand (commandWord 0 m b) = .nop := by
  simp [decodeCommand, cmdField_commandWord]

theorem decodeCommand_byte : decodeCommand (commandWord 1 m b) = .byte b := by
  simp [decodeCommand, cmdField_commandWord, inByteField_commandWord]

theorem decodeCommand_endOfBuffer : decodeCommand (commandWord 2 m b) = .endOfBuffer := by
  simp [decodeCommand, cmdField_commandWord]

theorem decodeCommand_start : decodeCommand (commandWord 3 m b) = .start (Mode.ofPin m) := by
  simp [decodeCommand, cmdField_commandWord, modeField_commandWord]

theorem commandWord_and_cmd : commandWord c m b &&& 0x600 = commandWord c 0 0 := by revert c m b; decide
theorem commandWord_and_cmd_byte : commandWord c m b &&& 0x6FF = commandWord c 0 b := by revert c m b; decide
theorem commandWord_and_cmd_mode : commandWord c m b &&& 0x700 = commandWord c m 0 := by revert c m b; decide

end

@[simp] theorem ofPin_pin (m : Mode) : Mode.ofPin m.pin = m := by cases m <;> rfl

@[simp] theorem pin_ofPin (m : BitVec 1) : (Mode.ofPin m).pin = m := by revert m; decide

theorem format_decodeCommand (w : CommandWord) : (decodeCommand w).format = .cmd := by
  rw [decodeCommand]
  split <;> rfl

/-- The decoded instruction keeps the `cmd` field of its word (R50). -/
theorem word_decodeCommand_and_cmd (w : CommandWord) : (decodeCommand w).word &&& 0x600 = w &&& 0x600 := by
  obtain ⟨c, m, b, rfl⟩ := exists_commandWord w
  rcases cmd_cases c with rfl | rfl | rfl | rfl <;> simp only [decodeCommand_nop, decodeCommand_byte,
    decodeCommand_endOfBuffer, decodeCommand_start, Instr.word, commandWord_and_cmd]

/-! ### Decoding an encoded instruction -/

theorem exists_byte_of_fh0 {i : Instr} (hf : i.format = .fh0) : ∃ b, i.word = b.setWidth 11 ∧ decodeFh0 b = i := by
  cases i
  case rlc | rlt | nop | byte | endOfBuffer | start => cases hf
  all_goals exact ⟨fh0Byte _ _, rfl, by rw [decodeFh0, decodeType_fh0Byte, flagsField_fh0Byte]; rfl⟩

theorem exists_byte_of_rlb {i : Instr} (hf : i.format = .rlb) : ∃ b, i.word = b.setWidth 11 ∧ decodeRlb b = i := by
  cases i
  case rlc d | rlt d =>
    exact ⟨rlbByte _ d, rfl, by simp [decodeRlb, contField_rlbByte, digitField_rlbByte]⟩
  all_goals cases hf

theorem decodeCommand_word {i : Instr} (hf : i.format = .cmd) : decodeCommand i.word = i := by
  cases i
  case nop => exact decodeCommand_nop 0 0
  case byte b => exact decodeCommand_byte 0 b
  case endOfBuffer => exact decodeCommand_endOfBuffer 0 0
  case start m => exact (decodeCommand_start m.pin 0).trans (congrArg Instr.start (ofPin_pin m))
  all_goals cases hf

/-- The number the decoder reads from the two bytes of a command word, low byte first. -/
theorem toNat_commandBytes (lo hi : Byte) :
    ((hi.setWidth 3 ++ lo : BitVec (3 + 8)).cast rfl : CommandWord).toNat = hi.toNat % 8 * 256 + lo.toNat := by
  rw [BitVec.toNat_cast, BitVec.toNat_append, ← Nat.shiftLeft_add_eq_or_of_lt lo.isLt, Nat.shiftLeft_eq,
    BitVec.toNat_setWidth]

theorem decode_cmd_encode {i : Instr} (hf : i.format = .cmd) (rest : List Byte) :
    decode .cmd (encode i ++ rest) = .ok (decodeCommand i.word, rest) := by
  have hw := i.word.isLt
  have hlow : (i.word.setWidth 8).toNat = i.word.toNat % 256 := BitVec.toNat_setWidth 8 i.word
  have hhigh : ((i.word.extractLsb' 8 3).setWidth 8 : Byte).toNat = i.word.toNat / 256 := by
    rw [BitVec.toNat_setWidth, BitVec.extractLsb'_toNat, Nat.shiftRight_eq_div_pow]
    omega
  have hjoin : (((i.word.extractLsb' 8 3).setWidth 8 : Byte).setWidth 3 ++ i.word.setWidth 8 :
      BitVec (3 + 8)).cast rfl = i.word := BitVec.eq_of_toNat_eq (by rw [toNat_commandBytes, hlow, hhigh]; omega)
  rw [encode, hf]
  simp only [List.cons_append, List.nil_append, decode]
  rw [if_pos (by omega), hjoin]

theorem decode_encode (i : Instr) (rest : List Byte) : decode i.format (encode i ++ rest) = .ok (i, rest) := by
  cases hf : i.format with
  | fh0 =>
    obtain ⟨b, hw, hb⟩ := exists_byte_of_fh0 hf
    rw [encode_of_fh0 hf hw, ← hb]
    rfl
  | rlb =>
    obtain ⟨b, hw, hb⟩ := exists_byte_of_rlb hf
    rw [encode_of_rlb hf hw, ← hb]
    rfl
  | cmd => rw [decode_cmd_encode hf, decodeCommand_word hf]

/-! ### The opcode table -/

/-- The rows of one format look at the same bits (R54). -/
theorem opcodeTable_mask_eq : ∀ r ∈ opcodeTable, ∀ r' ∈ opcodeTable, r.format = r'.format → r.mask = r'.mask := by
  decide

theorem opcodeTable_mask_of_cmd : ∀ r ∈ opcodeTable, r.format = .cmd → r.mask = 0x600 := by decide

theorem accepts_iff (r : OpcodeRow) (w : CommandWord) : r.accepts w = true ↔ w &&& r.mask = r.pattern := by
  rw [OpcodeRow.accepts, beq_iff_eq]

theorem rowMatch (i : Instr) : Laws.RowMatch.Statement i := by
  cases i with
  | reserved f => exact Laws.RowMatch.reserved f
  | connect f => exact Laws.RowMatch.connect f
  | connack f => exact Laws.RowMatch.connack f
  | publish f => exact Laws.RowMatch.publish f
  | puback f => exact Laws.RowMatch.puback f
  | pubrec f => exact Laws.RowMatch.pubrec f
  | pubrel f => exact Laws.RowMatch.pubrel f
  | pubcomp f => exact Laws.RowMatch.pubcomp f
  | subscribe f => exact Laws.RowMatch.subscribe f
  | suback f => exact Laws.RowMatch.suback f
  | unsubscribe f => exact Laws.RowMatch.unsubscribe f
  | unsuback f => exact Laws.RowMatch.unsuback f
  | pingreq f => exact Laws.RowMatch.pingreq f
  | pingresp f => exact Laws.RowMatch.pingresp f
  | disconnect f => exact Laws.RowMatch.disconnect f
  | auth f => exact Laws.RowMatch.auth f
  | rlc d => exact Laws.RowMatch.rlc d
  | rlt d => exact Laws.RowMatch.rlt d
  | nop => exact Laws.RowMatch.nop
  | byte b => exact Laws.RowMatch.byte b
  | endOfBuffer => exact Laws.RowMatch.endOfBuffer
  | start m => exact Laws.RowMatch.start m

/-! ### The statements -/

/-- Settles O57, by the three formats. -/
theorem decodeOfEncodeIsTheInstruction : Obligations.DecodeOfEncodeIsTheInstruction := by
  unfold Obligations.DecodeOfEncodeIsTheInstruction
  exact fun i rest _ => decode_encode i rest

/-- Settles O58: the wire rows keep the whole byte, a command the fields it reads. -/
theorem encodeOfDecodeIsTheWord : Obligations.EncodeOfDecodeIsTheWord := by
  unfold Obligations.EncodeOfDecodeIsTheWord
  refine ⟨fun b => ⟨encode_decodeFh0 b, encode_decodeRlb b⟩, fun w => ⟨word_decodeCommand_and_cmd w, ?_⟩⟩
  obtain ⟨c, m, b, rfl⟩ := exists_commandWord w
  refine ⟨fun hbyte => ?_, fun hstart => ?_⟩
  · obtain rfl : c = 1 := (cmdField_commandWord c m b).symm.trans hbyte
    rw [decodeCommand_byte, commandWord_and_cmd_byte, Instr.word]
  · obtain rfl : c = 3 := (cmdField_commandWord c m b).symm.trans hstart
    rw [decodeCommand_start, commandWord_and_cmd_mode, Instr.word, pin_ofPin]

/-- Settles O59: two rows of a format have the same mask, so a common word gives them the same pattern; and the word of
an instruction belongs to the instruction's row. -/
theorem everyWordBelongsToExactlyItsRow : Obligations.EveryWordBelongsToExactlyItsRow := by
  unfold Obligations.EveryWordBelongsToExactlyItsRow
  refine ⟨fun r hr r' hr' hf hne w ⟨hw, hw'⟩ => hne ?_, fun b => ?_, fun b => ?_, fun w => ?_⟩
  · have hmask := opcodeTable_mask_eq r hr r' hr' hf
    rw [accepts_iff] at hw hw'
    have hpattern : r.pattern = r'.pattern := by rw [← hw, ← hw', hmask]
    cases r
    cases r'
    exact OpcodeRow.mk.injEq .. ▸ ⟨hf, hpattern, hmask⟩
  · obtain ⟨r, hrow, hf, hacc, -⟩ := rowMatch (decodeFh0 b)
    exact ⟨r, hrow, hf.trans (format_decodeFh0 b), word_decodeFh0 b ▸ hacc⟩
  · obtain ⟨r, hrow, hf, hacc, -⟩ := rowMatch (decodeRlb b)
    exact ⟨r, hrow, hf.trans (format_decodeRlb b), word_decodeRlb b ▸ hacc⟩
  · obtain ⟨r, hrow, hf, hacc, -⟩ := rowMatch (decodeCommand w)
    have hcmd := hf.trans (format_decodeCommand w)
    refine ⟨r, hrow, hcmd, ?_⟩
    rw [accepts_iff, opcodeTable_mask_of_cmd r (List.mem_of_getElem? hrow) hcmd] at *
    rwa [← word_decodeCommand_and_cmd]

/-- Settles O60, by evaluating the decoder on the seven words. -/
theorem sampleWordsDecode : Obligations.SampleWordsDecode := by
  unfold Obligations.SampleWordsDecode
  exact ⟨rfl, rfl, rfl, rfl, rfl, rfl, rfl⟩

end Sys2Proof.Machine
end

section
/-! PROOFS. The PUBLISH flags (`42_publish_flags.md` R85, R86). -/

namespace Sys2Proof.Machine

theorem decodeQos_injective {q q' : BitVec 2} (h : decodeQos q = decodeQos q') : q = q' := by revert q q'; decide

/-- The three fields partition the nibble (R86). -/
theorem nibble_eq_of_fields {f f' : Nibble} (hdup : dupField f = dupField f') (hqos : qosField f = qosField f')
    (hretain : retainField f = retainField f') : f = f' := by
  revert f f'; decide

/-- Settles O35: the fields are read as the rule says, and the three of them partition the nibble. -/
theorem publishFlagsAreTheirThreeFields : Obligations.PublishFlagsAreTheirThreeFields := by
  unfold Obligations.PublishFlagsAreTheirThreeFields
  refine ⟨rfl, rfl, rfl, rfl, fun _ => rfl, fun f f' h => ?_⟩
  obtain ⟨hdup, hqos, hretain⟩ := PublishFlags.mk.inj h
  exact nibble_eq_of_fields hdup (decodeQos_injective hqos) hretain

end Sys2Proof.Machine
end

section
/-! PROOFS. The step function (`44_fixed_header_decoder.md` R124, R128): what a BYTE command does in each phase, the
wire rows and the table words that run as it, the pins a step reads, and the registers it writes (`10_state.md` R21,
R22). -/

namespace Sys2Proof.Machine

/-! ### The byte of a BYTE command -/

/-- What a BYTE command does to the registers: R125, R102 or R126, by the phase. -/
def consume (b : Byte) (s : State) : State :=
  match s.r_ph with
  | .type => byteInType b s
  | .len => byteInLen b s
  | .done => s

theorem consume_of_type {s : State} (h : s.r_ph = .type) (b : Byte) : consume b s = byteInType b s := by
  simp [consume, h]

theorem consume_of_len {s : State} (h : s.r_ph = .len) (b : Byte) : consume b s = byteInLen b s := by
  simp [consume, h]

theorem consume_of_done {s : State} (h : s.r_ph = .done) (b : Byte) : consume b s = s := by
  simp [consume, h]

theorem exec_byte (b : Byte) (s : State) : exec (.byte b) s = .next (consume b s) := by
  cases hp : s.r_ph with
  | type => rw [exec_byte_of_type b hp, consume_of_type hp]
  | len => rw [exec_byte_of_len b hp, consume_of_len hp]
  | done => rw [exec_byte_of_done b hp, consume_of_done hp]

/-! ### The wire rows -/

theorem exists_headerRow {i : Instr} {b : Byte} (hf : i.format = .fh0) (he : encode i = [b]) :
    ∃ g, ∀ s, exec i s = headerRow g b s := by
  cases i
  case rlc | rlt | nop | byte | endOfBuffer | start => cases hf
  all_goals
    cases (encode_of_fh0 rfl rfl).symm.trans he
    exact ⟨_, fun _ => rfl⟩

theorem exists_lengthRow {i : Instr} {b : Byte} (hf : i.format = .rlb) (he : encode i = [b]) :
    ∃ g, ∀ s, exec i s = lengthRow g b s := by
  cases i
  case rlc | rlt =>
    cases (encode_of_rlb rfl rfl).symm.trans he
    exact ⟨_, fun _ => rfl⟩
  all_goals cases hf

/-- The dispatch of a byte 0 and the decoder select the same row (R54). -/
theorem exec_decodeFh0_eq_runHeaderByte (b : Byte) (s : State) : exec (decodeFh0 b) s = runHeaderByte b s := by
  cases ht : decodeType b <;> simp only [decodeFh0, runHeaderByte, ht] <;> rfl

/-- The dispatch of a length byte and the decoder select the same row (R47). -/
theorem exec_decodeRlb_eq_runLengthByte (b : Byte) (s : State) : exec (decodeRlb b) s = runLengthByte b s := by
  cases hc : contField b <;> simp only [decodeRlb, runLengthByte, hc] <;> rfl

/-- A header row does in every phase what a BYTE command with its byte does (log entry 7). -/
theorem exec_decodeFh0 (b : Byte) (s : State) : exec (decodeFh0 b) s = exec (.byte b) s := by
  obtain ⟨g, hrow⟩ := exists_headerRow (format_decodeFh0 b) (encode_decodeFh0 b)
  cases hp : s.r_ph with
  | type => rw [exec_decodeFh0_eq_runHeaderByte, runHeaderByte_of_type b hp, exec_byte_of_type b hp]
  | len => rw [hrow, headerRow_of_len hp, exec_byte_of_len b hp]
  | done => rw [hrow, headerRow_of_done hp, exec_byte_of_done b hp]

/-- A length row does in every phase what a BYTE command with its byte does (log entry 7). -/
theorem exec_decodeRlb (b : Byte) (s : State) : exec (decodeRlb b) s = exec (.byte b) s := by
  obtain ⟨g, hrow⟩ := exists_lengthRow (format_decodeRlb b) (encode_decodeRlb b)
  cases hp : s.r_ph with
  | type => rw [hrow, lengthRow_of_type hp, exec_byte_of_type b hp]
  | len => rw [exec_decodeRlb_eq_runLengthByte, runLengthByte_of_len b hp, exec_byte_of_len b hp]
  | done => rw [hrow, lengthRow_of_done hp, exec_byte_of_done b hp]

/-! ### The command on the pins -/

theorem command_eq_decodeCommand {c : Cycle} (h : c.rst = false) : c.command = some (decodeCommand c.word) := by
  simp [Cycle.command, h]

theorem step_drivePins {c : Cycle} {i : Instr} (h : c.command = some i) (s : State) :
    step (drivePins s c) = exec i (advance s) := step_of_command (s := drivePins s c) h

/-- A step depends on the pins only through the command they carry (R128). -/
theorem step_congr {s s' : State} (hc : (present s).command = (present s').command) (ha : advance s = advance s') :
    step s = step s' := by
  cases h : (present s).command with
  | none => rw [step_of_reset (command_eq_none.mp h), step_of_reset (command_eq_none.mp (hc.symm.trans h)), ha]
  | some i => rw [step_of_command h, step_of_command (hc.symm.trans h), ha]

/-- `mode` is read only by START, `in_byte` only by BYTE, and with `rst` = 1 nothing is read (R128, R153). -/
theorem command_eq_of_read_pins {c c' : Cycle} (hrst : c.rst = c'.rst) (hpins : c.rst = false →
    c.cmd = c'.cmd ∧ (c.cmd = 3 → c.mode = c'.mode) ∧ (c.cmd = 1 → c.in_byte = c'.in_byte)) :
    c.command = c'.command := by
  cases hr : c.rst with
  | true => rw [command_of_rst hr, command_of_rst (hrst.symm.trans hr)]
  | false =>
    obtain ⟨hcmd, hmode, hbyte⟩ := hpins hr
    rw [command_of_pins hr, command_of_pins (hrst.symm.trans hr), ← hcmd]
    rcases cmd_cases c.cmd with h | h | h | h
    · simp [h]
    · simp [h, hbyte h]
    · simp [h]
    · simp [h, hmode h]

/-! ### Table words -/

/-- A table word of at most 8 bits reads as byte 0 (log entry 8). -/
theorem decodeTableWord_of_byte {nbits w : Nat} {i : Instr} (hn : nbits ≤ 8) (h : decodeTableWord nbits w = some i) :
    decodeFh0 (BitVec.ofNat 8 w) = i := by
  rw [decodeTableWord] at h
  split at h
  · cases h
  · simpa [hn, decode] using h

/-- A wider table word reads as a command word in its two bytes (log entry 9). -/
theorem decodeTableWord_of_command {nbits w : Nat} {i : Instr} (hn : ¬ nbits ≤ 8)
    (h : decodeTableWord nbits w = some i) : decodeCommand (BitVec.ofNat 11 w) = i := by
  have hword : ((BitVec.ofNat 8 (w / 256)).setWidth 3 ++ BitVec.ofNat 8 w : BitVec (3 + 8)).cast rfl =
      BitVec.ofNat 11 w := BitVec.eq_of_toNat_eq (by simp only [toNat_commandBytes, BitVec.toNat_ofNat]; omega)
  have hdec : decode .cmd [BitVec.ofNat 8 w, BitVec.ofNat 8 (w / 256)] =
      if (BitVec.ofNat 8 (w / 256)).toNat < 8 then .ok (decodeCommand (BitVec.ofNat 11 w), [])
      else .error .commandWordTooWide := by rw [decode, hword]
  rw [decodeTableWord] at h
  split at h
  · cases h
  · simp only [hdec] at h
    by_cases hnarrow : (BitVec.ofNat 8 (w / 256)).toNat < 8
    · rw [if_pos hnarrow] at h
      exact Option.some.inj h
    · rw [if_neg hnarrow] at h
      cases h

theorem command_cycleOfTableWord_of_byte {nbits : Nat} (hn : nbits ≤ 8) (w : Nat) (e : Word) :
    (cycleOfTableWord nbits w e).command = some (.byte (BitVec.ofNat 8 w)) := by
  rw [cycleOfTableWord, if_pos hn, command_of_pins rfl]
  rfl

theorem command_cycleOfTableWord_of_command {nbits : Nat} (hn : ¬ nbits ≤ 8) (w : Nat) (e : Word) :
    (cycleOfTableWord nbits w e).command = some (decodeCommand (BitVec.ofNat 11 w)) := by
  rw [cycleOfTableWord, if_neg hn, command_eq_decodeCommand rfl, word_eq_commandWord, commandWord_fields]

/-! ### The length registers and the outcome -/

/-- A BYTE in phase LEN moves `r_idx` by one, or not at all where it ends the call (R102). -/
theorem byteInLen_r_idx (b : Byte) (s : State) :
    (byteInLen b s).r_idx = if contField b = true ∧ s.r_idx.toNat < 3 then s.r_idx + 1 else s.r_idx := by
  rcases byteInLen_cases b s with ⟨hc, hi, h⟩ | ⟨hc, hi, h⟩ | ⟨hc, -, -, h⟩ | ⟨hc, -, h⟩
  · simp [h, hc, hi]
  · simp [h, hc, hi]
  · simp [h, hc]
  · simp [h, hc]

/-- Without an opening cycle only a BYTE in phase LEN can touch the length registers (R21). -/
theorem step_keeps_length {s t : State} (h : step s = .next t) (hopen : ¬ OpensCall (present s))
    (hbyte : s.r_ph ≠ .len ∨ ∀ b, (present s).command ≠ some (.byte b)) :
    t.r_idx = s.r_idx ∧ t.r_acc = s.r_acc ∧ t.r_raw = s.r_raw := by
  rcases step_cases_of_not_opensCall h hopen with ⟨-, rfl⟩ | ⟨-, -, rfl⟩ | ⟨b, -, -, rfl⟩ | ⟨b, hc, hp, rfl⟩
  · simp
  · simp
  · simp
  · exact hbyte.elim (absurd hp) fun hno => absurd hc (hno b)

/-- A byte leaves `r_status` alone, or ends the call with an outcome other than code 7 (R22). -/
theorem byteInType_r_status (b : Byte) (s : State) :
    (byteInType b s).r_status = s.r_status ∨
      (byteInType b s).r_ph = .done ∧ (byteInType b s).r_status ≠ .valueTooLarge := by
  rcases byteInType_cases b s with ⟨-, h⟩ | ⟨-, -, h⟩ | ⟨-, -, -, h⟩ | ⟨-, -, -, h⟩ <;> simp [h]

theorem byteInLen_r_status (b : Byte) (s : State) :
    (byteInLen b s).r_status = s.r_status ∨
      (byteInLen b s).r_ph = .done ∧ (byteInLen b s).r_status ≠ .valueTooLarge := by
  rcases byteInLen_cases b s with ⟨-, -, h⟩ | ⟨-, -, h⟩ | ⟨-, -, -, h⟩ | ⟨-, -, h⟩ <;> simp [h]

/-- Without an opening cycle a step leaves `r_status` alone, or ends an open call (R22). -/
theorem step_r_status_cases {s t : State} (h : step s = .next t) (hopen : ¬ OpensCall (present s)) :
    t.r_status = s.r_status ∨ s.r_ph ≠ .done ∧ t.r_ph = .done ∧ t.r_status ≠ .valueTooLarge := by
  rcases step_cases_of_not_opensCall h hopen with ⟨-, rfl⟩ | ⟨-, hp, rfl⟩ | ⟨b, -, hp, rfl⟩ | ⟨b, -, hp, rfl⟩
  · exact .inl rfl
  · exact .inr ⟨hp, rfl, by simp⟩
  · exact (byteInType_r_status b (advance s)).imp_right fun hend => ⟨by simp [hp], hend⟩
  · exact (byteInLen_r_status b (advance s)).imp_right fun hend => ⟨by simp [hp], hend⟩

theorem step_keeps_done {s t : State} (h : step s = .next t) (hopen : ¬ OpensCall (present s)) (hp : s.r_ph = .done) :
    t = advance s := by
  rcases step_cases_of_not_opensCall h hopen with ⟨-, rfl⟩ | ⟨-, hne, -⟩ | ⟨b, -, hne, -⟩ | ⟨b, -, hne, -⟩
  · rfl
  · exact absurd hp hne
  · simp [hp] at hne
  · simp [hp] at hne

/-! ### The statements -/

/-- Settles O15: a row of a wire format is the one its byte decodes to, and runs as the BYTE command with it. -/
theorem wireRowActsAsItsByteInEveryPhase : Obligations.WireRowActsAsItsByteInEveryPhase := by
  unfold Obligations.WireRowActsAsItsByteInEveryPhase
  intro i b s hne he
  have hdec := decode_encode i []
  rw [he] at hdec
  cases hf : i.format with
  | fh0 =>
    rw [hf] at hdec
    obtain rfl : decodeFh0 b = i := (Prod.mk.inj (Except.ok.inj hdec)).1
    exact exec_decodeFh0 b s
  | rlb =>
    rw [hf] at hdec
    obtain rfl : decodeRlb b = i := (Prod.mk.inj (Except.ok.inj hdec)).1
    exact exec_decodeRlb b s
  | cmd => exact absurd hf hne

/-- Settles O18, by the two widths of a table word. -/
theorem tableWordRunsAsItsDecodedInstruction : Obligations.TableWordRunsAsItsDecodedInstruction := by
  unfold Obligations.TableWordRunsAsItsDecodedInstruction
  intro s nbits w i hi _
  rw [State.withFetchWord]
  by_cases hn : nbits ≤ 8
  · rw [step_drivePins (command_cycleOfTableWord_of_byte hn w _), ← exec_decodeFh0,
      decodeTableWord_of_byte hn hi]
  · rw [step_drivePins (command_cycleOfTableWord_of_command hn w _),
      decodeTableWord_of_command hn hi]

/-- Settles O20: the pins read make the command, and the command decides the step. -/
theorem unreadPinsHaveNoEffect : Obligations.UnreadPinsHaveNoEffect := by
  unfold Obligations.UnreadPinsHaveNoEffect
  exact fun s c c' hrst hpins => step_congr (command_eq_of_read_pins hrst hpins) rfl

/-- Settles O21: an opening cycle loads every register, so only the pins are left of the state before it. -/
theorem nothingOfAnEarlierCallSurvives : Obligations.NothingOfAnEarlierCallSurvives := by
  unfold Obligations.NothingOfAnEarlierCallSurvives
  intro s s' hhost hopen
  have hpresent : present s = present s' := by rw [present, present, hhost]
  have hload (m : Mode) : openCall m (advance s) = openCall m (advance s') := by simp [openCall, advance, hhost]
  rcases hopen with hrst | ⟨m, hstart⟩
  · rw [step_of_reset hrst, step_of_reset (hpresent ▸ hrst), resetRegisters_eq_openCall_parse,
      resetRegisters_eq_openCall_parse, hload]
  · rw [step_of_start hstart, step_of_start (hpresent ▸ hstart), hload]

/-- Settles O25, by the two kinds of cycle. -/
theorem lengthRegistersAreWrittenOnlyByLengthBytes : Obligations.LengthRegistersAreWrittenOnlyByLengthBytes := by
  unfold Obligations.LengthRegistersAreWrittenOnlyByLengthBytes
  intro s t h
  refine ⟨fun hopen => ?_, step_keeps_length h, fun b hc hp => ?_⟩
  · obtain ⟨m, hs⟩ := step_of_opensCall hopen
    simp [step_next_unique h hs]
  · rw [step_next_unique h (step_of_byte_in_len hc hp)]
    exact byteInLen_r_idx b (advance s)

/-- Settles O26: an opening cycle clears the outcome; every other step keeps it or ends an open call. -/
theorem statusIsWrittenOnlyWhereTheCallEnds : Obligations.StatusIsWrittenOnlyWhereTheCallEnds := by
  unfold Obligations.StatusIsWrittenOnlyWhereTheCallEnds
  intro s t h
  by_cases hopen : OpensCall (present s)
  · obtain ⟨m, hs⟩ := step_of_opensCall hopen
    simp [step_next_unique h hs, hopen]
  · refine ⟨(absurd · hopen), fun _ hne => ?_, fun hok hp => ?_, fun hlarge => ?_⟩
    · rcases step_r_status_cases h hopen with hkeep | ⟨hps, hpt, -⟩
      · exact absurd hkeep hne
      · exact ⟨hps, hpt⟩
    · rcases step_r_status_cases h hopen with hkeep | ⟨-, hpt, -⟩
      · refine hkeep.trans (hok fun hdone => hp ?_)
        rw [step_keeps_done h hopen hdone]
        exact hdone
      · exact absurd hpt hp
    · rcases step_r_status_cases h hopen with hkeep | ⟨-, -, hne⟩
      · exact hkeep.symm.trans hlarge
      · exact absurd hlarge hne

/-- Settles O13: the digit is taken, and the index decides whether the field may go on. -/
theorem continuationByteGoesOnOrIsMalformed : Obligations.ContinuationByteGoesOnOrIsMalformed := by
  unfold Obligations.ContinuationByteGoesOnOrIsMalformed
  intro d s hp
  rw [exec_rlc, lengthRow_of_len hp]
  refine ⟨fun hidx => ?_, fun hidx => ?_⟩
  · rw [continueLength_of_lt (s := takeLengthByte (rlbByte 1 d) s) hidx, takeLengthByte, digitField_rlbByte]
    rfl
  · rw [continueLength_of_last (s := takeLengthByte (rlbByte 1 d) s) hidx, takeLengthByte, digitField_rlbByte]
    rfl

/-- Settles O14: the digit is taken, and the call ends, padded or not. -/
theorem terminalByteEndsTheCall : Obligations.TerminalByteEndsTheCall := by
  unfold Obligations.TerminalByteEndsTheCall
  intro d s hp
  have hfirst : 1 ≤ s.r_idx.toNat ↔ s.r_idx ≠ 0 := by
    rw [Nat.one_le_iff_ne_zero, Ne, Ne, ← BitVec.toNat_inj]
    rfl
  rw [exec_rlt, lengthRow_of_len hp]
  by_cases hpad : s.r_idx ≠ 0 ∧ d = 0
  · rw [endLength_of_padded (s := takeLengthByte (rlbByte 0 d) s) (by rwa [takeLengthByte_r_idx, hfirst]), if_pos hpad,
      takeLengthByte, digitField_rlbByte]
    rfl
  · rw [endLength_of_unpadded (s := takeLengthByte (rlbByte 0 d) s) (by rwa [takeLengthByte_r_idx, hfirst]),
      if_neg hpad, takeLengthByte, digitField_rlbByte]
    rfl

/-- Settles O16: the command of a cycle without `rst` is its decoded word. -/
theorem stepRunsTheDecodedCommand : Obligations.StepRunsTheDecodedCommand := by
  unfold Obligations.StepRunsTheDecodedCommand
  exact fun s h => step_of_command (command_eq_decodeCommand h)

/-- Settles O17: the rows a byte decodes to run as the BYTE command. -/
theorem stepRunsTheWireRowOfThePhase : Obligations.StepRunsTheWireRowOfThePhase := by
  unfold Obligations.StepRunsTheWireRowOfThePhase
  intro s b h
  have hstep := step_of_command h
  exact ⟨fun _ => hstep.trans (exec_decodeFh0 b _).symm, fun _ => hstep.trans (exec_decodeRlb b _).symm,
    step_of_byte_in_done h⟩

/-- Settles O19: a step opens a call or is one of the others, and each of them only uses up the present cycle. -/
theorem stepAlwaysAnswersANextState : Obligations.StepAlwaysAnswersANextState := by
  unfold Obligations.StepAlwaysAnswersANextState
  intro s
  obtain ⟨t, h⟩ := step_answers s
  refine ⟨t, h, ?_⟩
  by_cases hopen : OpensCall (present s)
  · obtain ⟨m, hs⟩ := step_of_opensCall hopen
    simp [step_next_unique h hs]
  · rcases step_cases_of_not_opensCall h hopen with ⟨-, rfl⟩ | ⟨-, -, rfl⟩ | ⟨b, -, -, rfl⟩ | ⟨b, -, -, rfl⟩ <;> simp

/-- Settles O2: the reset state is a call just opened, which shows nothing on its ports. -/
theorem resetStateHoldsTheTableValues : Obligations.ResetStateHoldsTheTableValues := by
  unfold Obligations.ResetStateHoldsTheTableValues
  exact ⟨rfl, rfl, rfl, rfl, rfl, rfl, rfl, rfl, ports_of_ne_done (openCall_r_ph_ne_done .parse State.reset)⟩

end Sys2Proof.Machine
end

section
/-! PROOFS. The output ports of `FHP` (`10_state.md` R27): what they show by the outcome, in which ranges the register
invariant keeps them, and that on a finished call they are a function of the result the host reads from them (R129). -/

namespace Sys2Proof.Machine

/-! ### By the outcome -/

theorem ports_done_iff (s : State) : (ports s).done = true ↔ s.r_ph = .done := by simp [ports]

theorem ports_status_of_done {s : State} (h : s.r_ph = .done) : (ports s).status = s.r_status.code := by simp [ports, h]

/-- The ports after a success (R27). -/
theorem ports_of_ok {s : State} (hp : s.r_ph = .done) (hok : s.r_status = .ok) :
    ports s =
      { done := true, status := 0, packet_type := s.r_type, flags := s.r_flags
        pub_valid := s.r_mode = .parse ∧ s.r_type = 3
        dup := if s.r_mode = .parse ∧ s.r_type = 3 then dupField s.r_flags else false
        qos := if s.r_mode = .parse ∧ s.r_type = 3 then qosField s.r_flags else 0
        retain := if s.r_mode = .parse ∧ s.r_type = 3 then retainField s.r_flags else false
        rl_value := s.r_acc, rl_count := s.r_idx.setWidth 3 + 1, rl_raw := s.r_raw
        err_expected := some 0, err_found := 0 } := by
  simp [ports, hp, hok, Status.code]

/-- The ports after an error (R27). -/
theorem ports_of_error {s : State} (hp : s.r_ph = .done) (herr : s.r_status ≠ .ok) :
    ports s =
      { Ports.zero with
        done := true, status := s.r_status.code
        err_expected := if s.r_status = .invalidFlags then reservedFlags (PacketType.ofCode s.r_type) else some 0
        err_found := if s.r_status = .invalidFlags then s.r_flags else if s.r_status = .invalidQos then 3 else 0 } := by
  simp [ports, hp, herr, Ports.zero]

theorem status_code_eq_zero_iff (e : Status) : e.code = 0 ↔ e = .ok := by cases e <;> decide

/-! ### In range -/

theorem ofCode_eq_iff (c : Nibble) (t : PacketType) : PacketType.ofCode c = t ↔ c = t.code := by
  constructor
  · rintro rfl
    rw [code_ofCode]
  · rintro rfl
    exact ofCode_code t

/-- An accepted PUBLISH has a QoS other than 3 (R89). -/
theorem HeaderAccepted.qosField_ne_three {s : State} (h : HeaderAccepted s) (ht : s.r_type = 3) :
    qosField s.r_flags ≠ 3 := by
  obtain ⟨-, -, hqos⟩ := h
  exact fun hbad => Bool.eq_false_iff.mp hqos ((qosBad_eq_true_iff _ _).mpr ⟨(ofCode_eq_iff _ .publish).mpr ht, hbad⟩)

theorem RegInv.headerAccepted_of_ok {s : State} (h : RegInv s) (hp : s.r_ph = .done) (hok : s.r_status = .ok)
    (hmode : s.r_mode = .parse) : HeaderAccepted s := h.accepted hmode (.inr ⟨hp, .inl hok⟩)

/-- After `InvalidFlags` the table has a value for the type (R27, R134). -/
theorem RegInv.exists_reservedFlags {s : State} (h : RegInv s) (he : s.r_status = .invalidFlags) :
    ∃ e, reservedFlags (PacketType.ofCode s.r_type) = some e := by
  obtain ⟨-, hflags, -⟩ := h.gateErrors
  obtain ⟨-, hbad⟩ := hflags he
  obtain ⟨e, hrf, -⟩ := (flagsBad_eq_true_iff _ _).mp hbad
  exact ⟨e, hrf⟩

theorem toNat_rl_count (i : BitVec 2) : (i.setWidth 3 + 1).toNat = i.toNat + 1 := by revert i; decide

theorem rl_count_eq (s : State) : BitVec.ofNat 3 (lengthRecord s).encoded_byte_count = s.r_idx.setWidth 3 + 1 := by
  rw [lengthRecord, ← toNat_rl_count, BitVec.ofNat_toNat, BitVec.setWidth_eq]

/-! ### What the host reads -/

/-- The error in the registers of a call that has ended with one (R129). -/
def registerError (s : State) : Option ParseError :=
  match s.r_status with
  | .ok | .valueTooLarge => none
  | .truncatedInput => some .truncatedInput
  | .reservedTypeUsed => some .reservedTypeUsed
  | .invalidFlags =>
    (reservedFlags (PacketType.ofCode s.r_type)).map fun e => .invalidFlags (e.setWidth 8) (s.r_flags.setWidth 8)
  | .invalidQos => some (.invalidQos 3)
  | .malformedRemainingLength => some .malformedRemainingLength
  | .nonMinimalEncoding => some .nonMinimalEncoding

section
variable {s : State} (hp : s.r_ph = .done)
include hp

theorem readError_ports (herr : s.r_status ≠ .ok) : readError (ports s) = registerError s := by
  rw [ports_of_error hp herr]
  cases he : s.r_status <;> simp_all [readError, registerError, Status.code]

theorem ports_status_ne_zero (herr : s.r_status ≠ .ok) : (ports s).status ≠ 0 := by
  rwa [ports_status_of_done hp, Ne, status_code_eq_zero_iff]

theorem readHeader_ports_of_error (herr : s.r_status ≠ .ok) :
    readHeader (ports s) = (registerError s).map .error := by
  rw [readHeader, (ports_done_iff s).mpr hp, if_neg (by simp), if_neg (ports_status_ne_zero hp herr),
    readError_ports hp herr]

theorem readLength_ports_of_error (herr : s.r_status ≠ .ok) :
    readLength (ports s) = (registerError s).map .error := by
  rw [readLength, (ports_done_iff s).mpr hp, if_neg (by simp), if_neg (ports_status_ne_zero hp herr),
    readError_ports hp herr]

theorem readRemainingLength_ports (hok : s.r_status = .ok) : readRemainingLength (ports s) = lengthRecord s := by
  rw [readRemainingLength, ports_of_ok hp hok, lengthRecord, toNat_rl_count]

theorem readLength_ports_of_ok (hok : s.r_status = .ok) : readLength (ports s) = some (.ok (lengthRecord s)) := by
  rw [readLength, readRemainingLength_ports hp hok, ports_of_ok hp hok]
  rfl

theorem readHeader_ports_of_ok (hok : s.r_status = .ok) :
    readHeader (ports s) = some (.ok
      { packet_type := PacketType.ofCode s.r_type
        flags := s.r_flags.setWidth 8
        publish_flags := if s.r_mode = .parse ∧ s.r_type = 3 then some (decodePublishFlags s.r_flags) else none
        remaining_length := lengthRecord s }) := by
  rw [readHeader, readRemainingLength_ports hp hok, ports_of_ok hp hok]
  by_cases hpub : s.r_mode = .parse ∧ s.r_type = 3
  · simp only [if_pos hpub, decide_eq_true hpub]
    rfl
  · simp only [if_neg hpub, decide_eq_false hpub]
    rfl

end

/-- On a run an error code comes with an error, whatever its payload (R129). -/
theorem RegInv.exists_registerError {s : State} (h : RegInv s) (herr : s.r_status ≠ .ok) :
    ∃ e, registerError s = some e := by
  have hlarge := h.neverTooLarge
  cases he : s.r_status with
  | ok => exact absurd he herr
  | valueTooLarge => exact absurd he hlarge
  | invalidFlags =>
    obtain ⟨e, hrf⟩ := h.exists_reservedFlags he
    simp [registerError, he, hrf]
  | _ => simp [registerError, he]

/-! ### A packed word and its bytes -/

theorem toNat_byteOf (raw : Word) (i : Nat) : (byteOf raw i).toNat = raw.toNat / 256 ^ i % 256 := by
  rw [byteOf, BitVec.extractLsb'_toNat, Nat.shiftRight_eq_div_pow, Nat.pow_mul]

/-- The word whose bytes from the lowest up are those of the list (R36). -/
def packBytes (bytes : List Byte) : Word := BitVec.ofNat 32 (Nat.ofDigits 256 (bytes.map BitVec.toNat))

theorem ofDigits_lowBytes (raw : Word) (n : Nat) :
    Nat.ofDigits 256 ((lowBytes raw n).map BitVec.toNat) = raw.toNat % 256 ^ n := by
  induction n with
  | zero => simp [lowBytes, Nat.mod_one]
  | succ n ih =>
    have hsucc : lowBytes raw (n + 1) = lowBytes raw n ++ [byteOf raw n] := by simp [lowBytes, List.range_succ]
    rw [hsucc, List.map_append, Nat.ofDigits_append, ih, List.length_map, length_lowBytes, List.map_singleton,
      Nat.ofDigits_singleton, toNat_byteOf, Nat.mod_pow_succ]

theorem packBytes_lowBytes {raw : Word} {n : Nat} (h : raw.toNat < 256 ^ n) : packBytes (lowBytes raw n) = raw := by
  rw [packBytes, ofDigits_lowBytes, Nat.mod_eq_of_lt h, BitVec.ofNat_toNat, BitVec.setWidth_eq]

/-! ### The ports as a function of the result -/

/-- The ports that show an error: its code and its payload (R27). -/
def errorPorts (e : ParseError) : Ports :=
  { Ports.zero with
    done := true
    status := (errorStatus e).code
    err_expected := match e with
      | .invalidFlags expected _ => some (expected.setWidth 4)
      | _ => some 0
    err_found := match e with
      | .invalidFlags _ found => found.setWidth 4
      | .invalidQos bits => bits.setWidth 4
      | _ => 0 }

/-- The ports that show a length (R27). -/
def lengthPorts (r : RemainingLength) : Ports :=
  { Ports.zero with
    done := true, rl_value := r.value, rl_count := BitVec.ofNat 3 r.encoded_byte_count
    rl_raw := packBytes r.raw_bytes }

/-- The ports that show a header (R27). -/
def headerPorts (h : FixedHeader) : Ports :=
  { lengthPorts h.remaining_length with
    packet_type := h.packet_type.code
    flags := h.flags.setWidth 4
    pub_valid := h.packet_type = .publish
    dup := if h.packet_type = .publish then dupField (h.flags.setWidth 4) else false
    qos := if h.packet_type = .publish then qosField (h.flags.setWidth 4) else 0
    retain := if h.packet_type = .publish then retainField (h.flags.setWidth 4) else false }

/-- The ports that show a result, given those that show a success. -/
def resultPorts {α : Type} (okPorts : α → Ports) : Result α → Ports
  | .ok a => okPorts a
  | .error e => errorPorts e

theorem ports_eq_errorPorts {s : State} {e : ParseError} (hp : s.r_ph = .done) (he : registerError s = some e) :
    ports s = errorPorts e := by
  have herr : s.r_status ≠ .ok := fun hok => by simp [registerError, hok] at he
  rw [ports_of_error hp herr]
  cases hs : s.r_status with
  | invalidFlags =>
    simp only [registerError, hs, Option.map_eq_some_iff] at he
    obtain ⟨expected, hrf, rfl⟩ := he
    simp [errorPorts, errorStatus, hrf]
  | ok | valueTooLarge => simp [registerError, hs] at he
  | truncatedInput | reservedTypeUsed | invalidQos | malformedRemainingLength | nonMinimalEncoding =>
    simp only [registerError, hs, Option.some.injEq] at he
    subst he
    simp [errorPorts, errorStatus]

section
variable {s : State} (h : RegInv s) (hp : s.r_ph = .done)
include h hp

/-- After a success the length ports are those of the record in the registers. -/
theorem RegInv.packBytes_raw (hok : s.r_status = .ok) : packBytes (lengthRecord s).raw_bytes = s.r_raw :=
  packBytes_lowBytes (h.okRecord hp hok).2

theorem RegInv.ports_eq_lengthPorts (hmode : s.r_mode = .rldec) (hok : s.r_status = .ok) :
    ports s = lengthPorts (lengthRecord s) := by
  obtain ⟨ht, hf⟩ := h.rldecHeader hmode
  rw [ports_of_ok hp hok, lengthPorts, h.packBytes_raw hp hok, rl_count_eq]
  simp [Ports.zero, lengthRecord, hmode, ht, hf]

theorem RegInv.ports_eq_headerPorts (hmode : s.r_mode = .parse) (hok : s.r_status = .ok) {pf : Option PublishFlags} :
    ports s = headerPorts
      { packet_type := PacketType.ofCode s.r_type, flags := s.r_flags.setWidth 8, publish_flags := pf
        remaining_length := lengthRecord s } := by
  have hpub : PacketType.ofCode s.r_type = .publish ↔ s.r_type = 3 := ofCode_eq_iff _ .publish
  rw [ports_of_ok hp hok, headerPorts, lengthPorts, h.packBytes_raw hp hok, rl_count_eq]
  simp [Ports.zero, lengthRecord, hmode, hpub]

/-- A finished PARSE call shows a result, and nothing else on its ports. -/
theorem RegInv.exists_readHeader (hmode : s.r_mode = .parse) :
    ∃ x, readHeader (ports s) = some x ∧ ports s = resultPorts headerPorts x := by
  by_cases hok : s.r_status = .ok
  · exact ⟨_, readHeader_ports_of_ok hp hok, h.ports_eq_headerPorts hp hmode hok⟩
  · obtain ⟨e, he⟩ := h.exists_registerError hok
    exact ⟨.error e, by rw [readHeader_ports_of_error hp hok, he]; rfl, ports_eq_errorPorts hp he⟩

/-- A finished RLDEC call shows a result, and nothing else on its ports. -/
theorem RegInv.exists_readLength (hmode : s.r_mode = .rldec) :
    ∃ x, readLength (ports s) = some x ∧ ports s = resultPorts lengthPorts x := by
  by_cases hok : s.r_status = .ok
  · exact ⟨_, readLength_ports_of_ok hp hok, h.ports_eq_lengthPorts hp hmode hok⟩
  · obtain ⟨e, he⟩ := h.exists_registerError hok
    exact ⟨.error e, by rw [readLength_ports_of_error hp hok, he]; rfl, ports_eq_errorPorts hp he⟩

end

/-! ### The statements -/

/-- Settles O30, by the phase and the outcome. -/
theorem portsAreGatedByTheOutcome : Obligations.PortsAreGatedByTheOutcome := by
  unfold Obligations.PortsAreGatedByTheOutcome
  intro s
  refine ⟨ports_of_ne_done, fun hp => ⟨(ports_done_iff s).mpr hp, ports_status_of_done hp⟩, fun hp herr => ?_,
    fun hflags => ?_, fun hflags hqos => ?_⟩
  · simp [ports_of_error hp herr, Ports.zero]
  · simp [ports, hflags]
  · simp [ports, hflags, hqos]

/-- Settles O31: an accepted PUBLISH has no QoS 3, the index is below 4, and an `InvalidFlags` type is in the table. -/
theorem portsStayInRangeOnRuns : Obligations.PortsStayInRangeOnRuns := by
  unfold Obligations.PortsStayInRangeOnRuns
  intro s h
  by_cases hp : s.r_ph = .done
  case neg => simp [ports_of_ne_done hp, Ports.zero, hp]
  by_cases hok : s.r_status = .ok
  · have hidx : s.r_idx.toNat < 4 := s.r_idx.isLt
    rw [ports_of_ok hp hok]
    refine ⟨?_, ?_, fun _ _ => ?_, by simp⟩
    · split
      case isTrue hpub => exact (h.headerAccepted_of_ok hp hok hpub.1).qosField_ne_three hpub.2
      case isFalse => exact (by decide : (0 : BitVec 2) ≠ 3)
    · simp +contextual
    · rw [toNat_rl_count]
      omega
  · rw [ports_of_error hp hok]
    refine ⟨by simp [Ports.zero], by simp [Ports.zero], fun _ hok' => absurd hok' hok, ?_⟩
    split
    case isTrue he =>
      obtain ⟨e, hrf⟩ := h.exists_reservedFlags he
      simp [hrf]
    case isFalse => simp

/-- Settles O32: the ports of a finished call are the function `resultPorts` of the result read from them. -/
theorem portsAndResultDetermineEachOther : Obligations.PortsAndResultDetermineEachOther := by
  unfold Obligations.PortsAndResultDetermineEachOther
  intro s s' h h' hp hp' hsame
  refine ⟨fun hmode => ?_, fun hmode => ?_⟩
  · obtain ⟨x, hx, hports⟩ := h.exists_readHeader hp hmode
    obtain ⟨x', hx', hports'⟩ := h'.exists_readHeader hp' (hsame.symm.trans hmode)
    refine ⟨by simp [hx], fun heq => ?_⟩
    rw [hports, hports', Option.some.inj (hx.symm.trans (heq.trans hx'))]
  · obtain ⟨x, hx, hports⟩ := h.exists_readLength hp hmode
    obtain ⟨x', hx', hports'⟩ := h'.exists_readLength hp' (hsame.symm.trans hmode)
    refine ⟨by simp [hx], fun heq => ?_⟩
    rw [hports, hports', Option.some.inj (hx.symm.trans (heq.trans hx'))]

end Sys2Proof.Machine
end

section
/-! PROOFS. Runs of several cycles (`44_fixed_header_decoder.md` R130): a run as what its bytes do to the registers, one
cycle at a time, and the results of whole PARSE and RLDEC calls, with and without END. -/

namespace Sys2Proof.Machine

/-! ### One cycle of a run -/

/-- The registers of a state with other pins to come, as a run starts from them. -/
def withPins (cs : List Cycle) (s : State) : State := { s with host := cs }

/-- The ports are a function of the registers alone (R27). -/
@[simp] theorem ports_withPins (cs : List Cycle) (s : State) : ports (withPins cs s) = ports s := rfl

theorem runs_nil (s : State) : Runs s [] (withPins [] s) := rfl

theorem runs_cons {s s' t : State} {c : Cycle} {cs : List Cycle}
    (hstep : step (withPins (c :: cs) s) = .next (withPins cs s')) (h : Runs s' cs t) : Runs s (c :: cs) t := by
  rw [withPins] at hstep
  rw [Runs, List.length_cons, clocks, hstep]
  exact h

theorem byteInType_withPins (b : Byte) (cs : List Cycle) (s : State) :
    byteInType b (withPins cs s) = withPins cs (byteInType b s) := by
  simp only [byteInType, apply_ite (withPins cs)]
  rfl

theorem byteInLen_withPins (b : Byte) (cs : List Cycle) (s : State) :
    byteInLen b (withPins cs s) = withPins cs (byteInLen b s) := by
  simp only [byteInLen, continueLength, endLength, apply_ite (withPins cs)]
  rfl

/-- A byte changes the registers whatever pins are to come. -/
theorem consume_withPins (b : Byte) (cs : List Cycle) (s : State) :
    consume b (withPins cs s) = withPins cs (consume b s) := by
  cases hp : s.r_ph with
  | type => rw [consume_of_type hp, consume_of_type (s := withPins cs s) hp, byteInType_withPins]
  | len => rw [consume_of_len hp, consume_of_len (s := withPins cs s) hp, byteInLen_withPins]
  | done => rw [consume_of_done hp, consume_of_done (s := withPins cs s) hp]

/-- What END does to the registers (R127). -/
def closeCall (s : State) : State := if s.r_ph = .done then s else raise .truncatedInput s

theorem closeCall_of_open {s : State} (h : s.r_ph ≠ .done) : closeCall s = raise .truncatedInput s := if_neg h

theorem closeCall_of_done {s : State} (h : s.r_ph = .done) : closeCall s = s := if_pos h

/-- END leaves no call open, and the header registers as they are (R127). -/
theorem closeCall_keeps_header (s : State) : (closeCall s).r_ph = .done ∧ (closeCall s).r_mode = s.r_mode ∧
    (closeCall s).r_type = s.r_type ∧ (closeCall s).r_flags = s.r_flags := by
  by_cases hp : s.r_ph = .done
  · rw [closeCall_of_done hp]
    exact ⟨hp, rfl, rfl, rfl⟩
  · rw [closeCall_of_open hp]
    exact ⟨rfl, rfl, rfl, rfl⟩

theorem closeCall_withPins (cs : List Cycle) (s : State) : closeCall (withPins cs s) = withPins cs (closeCall s) := by
  simp only [closeCall, apply_ite (withPins cs)]
  rfl

theorem exec_end (s : State) : exec .endOfBuffer s = .next (closeCall s) := by
  by_cases hp : s.r_ph = .done
  · rw [exec_end_of_done hp, closeCall_of_done hp]
  · rw [exec_end_of_open hp, closeCall_of_open hp]

section
variable {s t : State} {c : Cycle} {cs : List Cycle}

theorem runs_cons_of_start {m : Mode} (hc : c.command = some (.start m)) (h : Runs (openCall m s) cs t) :
    Runs s (c :: cs) t :=
  runs_cons (s' := openCall m s) (step_of_start (s := withPins (c :: cs) s) hc) h

theorem runs_cons_of_nop (hc : c.command = some .nop) (h : Runs s cs t) : Runs s (c :: cs) t :=
  runs_cons (step_of_nop (s := withPins (c :: cs) s) hc) h

theorem runs_cons_of_byte {b : Byte} (hc : c.command = some (.byte b)) (h : Runs (consume b s) cs t) :
    Runs s (c :: cs) t := by
  refine runs_cons ?_ h
  rw [step_of_command (s := withPins (c :: cs) s) hc, exec_byte, ← consume_withPins]
  rfl

theorem runs_cons_of_end (hc : c.command = some .endOfBuffer) (h : Runs (closeCall s) cs t) : Runs s (c :: cs) t := by
  refine runs_cons ?_ h
  rw [step_of_command (s := withPins (c :: cs) s) hc, exec_end, ← closeCall_withPins]
  rfl

end

/-! ### A buffer delivered -/

/-- The registers after the bytes of a buffer (R130). -/
def consumeAll (buf : Buffer) (s : State) : State := buf.foldl (fun s b => consume b s) s

@[simp] theorem consumeAll_nil (s : State) : consumeAll [] s = s := rfl

@[simp] theorem consumeAll_cons (b : Byte) (buf : Buffer) (s : State) :
    consumeAll (b :: buf) s = consumeAll buf (consume b s) := rfl

/-- After the call has ended no byte changes anything (R126). -/
theorem consumeAll_of_done {s : State} (h : s.r_ph = .done) (buf : Buffer) : consumeAll buf s = s := by
  induction buf with
  | nil => rfl
  | cons b buf ih => rw [consumeAll_cons, consume_of_done h, ih]

theorem RegInv.consume {s : State} (h : RegInv s) (b : Byte) : RegInv (consume b s) := by
  cases hp : s.r_ph with
  | type => rw [consume_of_type hp]; exact h.byteInType hp b
  | len => rw [consume_of_len hp]; exact h.byteInLen hp b
  | done => rwa [consume_of_done hp]

theorem RegInv.consumeAll {s : State} (h : RegInv s) (buf : Buffer) : RegInv (consumeAll buf s) := by
  induction buf generalizing s with
  | nil => exact h
  | cons b buf ih => exact ih (h.consume b)

/-- Delivering a buffer has the effect of its bytes, wherever NOPs stand between them (R122, R130). -/
theorem Delivers.runs {buf : Buffer} {cs : List Cycle} (h : Delivers buf cs) {s t : State} {rest : List Cycle}
    (hrest : Runs (Machine.consumeAll buf s) rest t) : Runs s (cs ++ rest) t := by
  induction h generalizing s with
  | nil => exact hrest
  | nop hc _ ih => exact runs_cons_of_nop hc (ih hrest)
  | byte hc _ ih => exact runs_cons_of_byte hc (ih hrest)

/-! ### The length field of a call -/

/-- The call has ended, and the registers hold `x`: the record, or the error's code. -/
def EndedWith (t : State) (x : Result RemainingLength) : Prop :=
  t.r_ph = .done ∧
    match x with
    | .ok r => t.r_status = .ok ∧ lengthRecord t = r
    | .error e => t.r_status = errorStatus e

theorem EndedWith.done {t : State} {x : Result RemainingLength} (h : EndedWith t x) : t.r_ph = .done := h.1

/-- From `s` in phase LEN a call comes to `t` by bytes that give `x`: it has ended unless the bytes are too few, END
then gives `x` in any case, and the header registers stand. -/
structure LengthAnswer (s t : State) (x : Result RemainingLength) : Prop where
  done_iff : t.r_ph = .done ↔ x ≠ .error .truncatedInput
  ended : EndedWith (closeCall t) x
  header : t.r_mode = s.r_mode ∧ t.r_type = s.r_type ∧ t.r_flags = s.r_flags

section
variable {s : State} (h : RegInv s) (hp : s.r_ph = .len) {b : Byte}
include h hp

/-- A byte that goes on is one more byte of the field so far. -/
theorem byteInLen_goes_on (hcont : contField b = true) (hidx : s.r_idx.toNat < 3) :
    (byteInLen b s).r_ph = .len ∧ (byteInLen b s).r_idx.toNat = s.r_idx.toNat + 1 ∧
      lowBytes (byteInLen b s).r_raw (s.r_idx.toNat + 1) = lowBytes s.r_raw s.r_idx.toNat ++ [b] := by
  obtain ⟨-, hraw, -⟩ := h.lenSoFar hp
  have hnext : (s.r_idx + 1).toNat = s.r_idx.toNat + 1 := by
    rw [BitVec.toNat_add]; exact Nat.mod_eq_of_lt (by simp; omega)
  rw [byteInLen_of_cont hcont, continueLength_of_lt (s := takeLengthByte b s) hidx]
  exact ⟨hp, hnext, lowBytes_putByte b hraw⟩

/-- Any other byte ends the call with the answer of the scan, which sees no further byte. -/
theorem byteInLen_ends (hend : ¬ (contField b = true ∧ s.r_idx.toNat < 3)) (rest : Buffer) :
    EndedWith (byteInLen b s) (scanLength (4 - s.r_idx.toNat) (lowBytes s.r_raw s.r_idx.toNat) (b :: rest)) ∧
      scanLength (4 - s.r_idx.toNat) (lowBytes s.r_raw s.r_idx.toNat) (b :: rest) ≠ .error .truncatedInput := by
  have hidx : s.r_idx.toNat < 4 := s.r_idx.isLt
  have hleft : 4 - s.r_idx.toNat = (3 - s.r_idx.toNat) + 1 := by omega
  rw [hleft, scanLength]
  rcases byteInLen_cases b s with ⟨hcont, hi, -⟩ | ⟨hcont, hi, heq⟩ | ⟨hterm, hi, hd, heq⟩ | ⟨hterm, hor, heq⟩
  · exact absurd ⟨hcont, hi⟩ hend
  · rw [heq, if_pos hcont, hi]
    exact ⟨⟨rfl, rfl⟩, nofun⟩
  · have hpad := minlen_le_length_iff_padded (pre := lowBytes s.r_raw s.r_idx.toNat) (b := b) (by simp; omega)
    have hfield : endOfField (lowBytes s.r_raw s.r_idx.toNat ++ [b]) = .error .nonMinimalEncoding := by
      rw [endOfField_eq_error_iff, List.length_append, List.length_singleton, Nat.lt_succ_iff, hpad, length_lowBytes]
      exact ⟨⟨hi, hd⟩, rfl⟩
    rw [heq, if_neg (Bool.eq_false_iff.mp hterm), hfield]
    exact ⟨⟨rfl, rfl⟩, nofun⟩
  · have hunpadded : ¬ (1 ≤ s.r_idx.toNat ∧ digitField b = 0) := fun ⟨hi, hd⟩ =>
      hor.elim (Nat.ne_zero_of_lt hi) (absurd hd)
    rw [heq, if_neg (Bool.eq_false_iff.mp hterm), endOfField_eq_ok_lengthRecord h hp hterm hunpadded]
    exact ⟨⟨rfl, rfl, rfl⟩, nofun⟩

end

/-- What Level H does to the registers is what the scan of Level F does to the bytes it has read: those of the field so
far, and then as many more as R90 allows. -/
theorem lengthAnswer_consumeAll {s : State} (h : RegInv s) (hp : s.r_ph = .len) (buf : Buffer) :
    LengthAnswer s (consumeAll buf s) (scanLength (4 - s.r_idx.toNat) (lowBytes s.r_raw s.r_idx.toNat) buf) := by
  induction buf generalizing s with
  | nil =>
    have hidx : s.r_idx.toNat < 4 := s.r_idx.isLt
    obtain ⟨left, hleft⟩ := Nat.exists_eq_succ_of_ne_zero (show 4 - s.r_idx.toNat ≠ 0 by omega)
    rw [hleft, scanLength, consumeAll_nil]
    refine ⟨by simp [hp], ?_, rfl, rfl, rfl⟩
    rw [closeCall_of_open (by simp [hp])]
    exact ⟨rfl, rfl⟩
  | cons b buf ih =>
    obtain ⟨hmode, htype, hflags, -⟩ := byteInLen_writes_length b s
    rw [consumeAll_cons, consume_of_len hp]
    by_cases hgo : contField b = true ∧ s.r_idx.toNat < 3
    · obtain ⟨hcont, hidx⟩ := hgo
      obtain ⟨hlen, hnext, hbytes⟩ := byteInLen_goes_on h hp hcont hidx
      have hscan : scanLength (4 - s.r_idx.toNat) (lowBytes s.r_raw s.r_idx.toNat) (b :: buf) =
          scanLength (4 - (byteInLen b s).r_idx.toNat)
            (lowBytes (byteInLen b s).r_raw (byteInLen b s).r_idx.toNat) buf := by
        rw [hnext, hbytes, show 4 - s.r_idx.toNat = (4 - (s.r_idx.toNat + 1)) + 1 by omega, scanLength, if_pos hcont]
      obtain ⟨hdone, hended, hm, ht, hf⟩ := ih (h.byteInLen hp b) hlen
      rw [hscan]
      exact ⟨hdone, hended, hm.trans hmode, ht.trans htype, hf.trans hflags⟩
    · obtain ⟨hended, hne⟩ := byteInLen_ends h hp hgo buf
      have hdone := hended.done
      rw [consumeAll_of_done hdone]
      refine ⟨iff_of_true hdone hne, ?_, hmode, htype, hflags⟩
      rwa [closeCall_of_done hdone]

/-- A field from its first byte on. -/
theorem lengthAnswer_of_first {s : State} (h : RegInv s) (hp : s.r_ph = .len) (hidx : s.r_idx = 0) (buf : Buffer) :
    LengthAnswer s (consumeAll buf s) (decodeRemainingLength buf) := by
  have hanswer := lengthAnswer_consumeAll h hp buf
  rw [hidx] at hanswer
  rwa [decodeRemainingLength_eq_scan]

/-! ### Whole calls -/

/-- An error of the length decoder has no payload, so its code is all the registers need (R129). -/
theorem registerError_of_length_error {t : State} {e : ParseError} {bytes : Buffer}
    (h : decodeRemainingLength bytes = .error e) (ht : t.r_status = errorStatus e) : registerError t = some e := by
  rcases decodeRemainingLength_error_cases h with rfl | rfl | rfl <;> simp [registerError, ht, errorStatus]

theorem readLength_of_endedWith {t : State} {buf : Buffer} (h : EndedWith t (decodeRemainingLength buf)) :
    readLength (ports t) = some (decodeRemainingLength buf) := by
  obtain ⟨hp, hx⟩ := h
  cases hl : decodeRemainingLength buf with
  | ok r =>
    rw [hl] at hx
    obtain ⟨hok, rfl⟩ := hx
    exact readLength_ports_of_ok hp hok
  | error e =>
    rw [hl] at hx
    have he := registerError_of_length_error hl hx
    have herr : t.r_status ≠ .ok := fun hok => by simp [registerError, hok] at he
    rw [readLength_ports_of_error hp herr, he]
    rfl

/-- The bytes of an RLDEC call: it has ended unless they are truncated, and END then gives the result of Level F. -/
theorem rldec_call (s : State) (buf : Buffer) :
    LengthAnswer (openCall .rldec s) (consumeAll buf (openCall .rldec s)) (decodeRemainingLength buf) :=
  lengthAnswer_of_first (regInv_openCall .rldec s) rfl rfl buf

/-- The error of a rejected byte 0 is in the registers, its payload recovered from `r_type` and `r_flags` (R129). -/
theorem registerError_of_byte0_error {b : Byte} {e : ParseError} (h : parseByte0 b = .error e) (s : State) :
    (byteInType b s).r_ph = .done ∧ registerError (byteInType b s) = some e := by
  rw [byteInType_of_parseByte0_error h]
  refine ⟨rfl, ?_⟩
  rcases parseByte0_cases b with ⟨-, h'⟩ | ⟨-, rf, hrf, -, h'⟩ | ⟨-, -, h'⟩ | ⟨-, -, -, pf, h'⟩ <;>
    cases h.symm.trans h'
  · rfl
  · rw [decodeType] at hrf
    simp [registerError, errorStatus, hrf]
  · rfl

theorem readHeader_of_registerError {t : State} {e : ParseError} (hp : t.r_ph = .done) (he : registerError t = some e) :
    readHeader (ports t) = some (.error e) := by
  have herr : t.r_status ≠ .ok := fun hok => by simp [registerError, hok] at he
  rw [readHeader_ports_of_error hp herr, he]
  rfl

/-- After an accepted byte 0 the registers give the header, once the length has been decoded (R114, R129). -/
theorem readHeader_of_endedWith {b : Byte} {t : State} {pf : Option PublishFlags} {rest : Buffer}
    (hb : parseByte0 b = .ok (decodeType b, flagsField b, pf)) (h : EndedWith t (decodeRemainingLength rest))
    (hmode : t.r_mode = .parse) (ht : t.r_type = typeField b) (hf : t.r_flags = flagsField b) :
    readHeader (ports t) = some (parse (b :: rest)) := by
  obtain ⟨hp, hx⟩ := h
  rw [parse_cons_of_ok hb]
  cases hl : decodeRemainingLength rest with
  | error e =>
    rw [hl] at hx
    exact readHeader_of_registerError hp (registerError_of_length_error hl hx)
  | ok r =>
    rw [hl] at hx
    obtain ⟨hok, rfl⟩ := hx
    have hpub : typeField b = 3 ↔ decodeType b = .publish := typeField_eq_code_iff b .publish
    have hpf : (if decodeType b = .publish then some (decodePublishFlags (flagsField b)) else none) = pf := by
      rcases parseByte0_ok_cases hb with ⟨hpub, -, rfl⟩ | ⟨-, hne, -, rfl⟩
      · exact if_pos hpub
      · exact if_neg hne
    rw [readHeader_ports_of_ok hp hok, hmode, ht, hf]
    simp only [true_and, hpub, hpf]
    rfl

/-- The bytes of a PARSE call: it has ended unless they are truncated, and END then gives the result of Level F. -/
theorem parse_call (s : State) (buf : Buffer) :
    ((consumeAll buf (openCall .parse s)).r_ph = .done ↔ parse buf ≠ .error .truncatedInput) ∧
      (closeCall (consumeAll buf (openCall .parse s))).r_ph = .done ∧
      readHeader (ports (closeCall (consumeAll buf (openCall .parse s)))) = some (parse buf) := by
  cases buf with
  | nil => exact ⟨iff_of_false nofun (absurd rfl), rfl, readHeader_of_registerError rfl rfl⟩
  | cons b rest =>
    have hp : (openCall .parse s).r_ph = .type := rfl
    rw [consumeAll_cons, consume_of_type hp]
    cases hb : parseByte0 b with
    | error e =>
      obtain ⟨hdone, he⟩ := registerError_of_byte0_error hb (openCall .parse s)
      have hne : parse (b :: rest) ≠ .error .truncatedInput := fun htrunc => by
        rw [parse_cons_of_error hb] at htrunc
        cases htrunc
        exact parseByte0_ne_truncatedInput b hb
      rw [consumeAll_of_done hdone, closeCall_of_done hdone, parse_cons_of_error hb]
      exact ⟨iff_of_true hdone (parse_cons_of_error hb rest ▸ hne), hdone, readHeader_of_registerError hdone he⟩
    | ok x =>
      obtain ⟨t, f, pf⟩ := x
      obtain ⟨rfl, rfl⟩ := type_and_flags_of_parseByte0_ok hb
      have hlen : (byteInType b (openCall .parse s)).r_ph = .len := by rw [byteInType_of_parseByte0_ok hb]; rfl
      obtain ⟨hmode, htype, hflags, hidx, -⟩ := byteInType_writes_header b (openCall .parse s)
      have hinv := (regInv_openCall .parse s).byteInType hp b
      obtain ⟨hdone, hended, hm, ht, hf⟩ := lengthAnswer_of_first hinv hlen hidx rest
      rw [Ne, parse_cons_eq_truncated_iff hb]
      obtain ⟨-, hm', ht', hf'⟩ := closeCall_keeps_header (consumeAll rest (byteInType b (openCall .parse s)))
      exact ⟨hdone, hended.done, readHeader_of_endedWith hb hended ((hm'.trans hm).trans hmode)
        ((ht'.trans ht).trans htype) ((hf'.trans hf).trans hflags)⟩

/-! ### The bytes of the encoder unit -/

/-- The bytes above the field are 0, so the packed word is below the next power of 256. -/
theorem toNat_lt_of_byteOf_eq_zero {raw : Word} {n : Nat} (hn : n ≤ 4) (h : ∀ i, n ≤ i → i < 4 → byteOf raw i = 0) :
    raw.toNat < 256 ^ n := by
  induction hn using Nat.decreasingInduction with
  | self => exact raw.isLt
  | of_succ n hlt ih =>
    have hbelow := ih fun i hi => h i (by omega)
    have hzero : raw.toNat / 256 ^ n % 256 = 0 := by rw [← toNat_byteOf, h n le_rfl hlt]; rfl
    rw [pow_succ'] at hbelow
    rw [Nat.mod_eq_of_lt (Nat.div_lt_of_lt_mul (by rwa [Nat.mul_comm] at hbelow))] at hzero
    exact (Nat.div_eq_zero_iff_lt (by positivity)).mp hzero

section
variable {v : Word} (h : v.toNat ≤ Config.rlValueMax)
include h

theorem lowBytes_rlenc : lowBytes (rlenc v).enc_raw (rlenc v).enc_count.toNat = encodeDigits Config.rlMaxBytes v := by
  have hlen := length_encodeDigits (by decide) le_rfl (Nat.lt_succ_of_le h)
  have hmin : minlen v.toNat ≤ 4 := (minlen_le_iff (by decide) le_rfl).mpr (Nat.lt_succ_of_le h)
  rw [rlenc_enc_count_toNat h]
  refine List.ext_getElem (by rw [length_lowBytes, hlen]) fun i hi hi' => ?_
  rw [length_lowBytes] at hi
  simp only [lowBytes, List.getElem_map, List.getElem_range]
  rw [byteOf_rlenc h (by omega), List.getD_eq_getElem _ _ hi']

theorem packBytes_encodeDigits : packBytes (encodeDigits Config.rlMaxBytes v) = (rlenc v).enc_raw := by
  have hlen := length_encodeDigits (by decide) le_rfl (Nat.lt_succ_of_le h)
  rw [← lowBytes_rlenc h, packBytes_lowBytes]
  rw [rlenc_enc_count_toNat h]
  refine toNat_lt_of_byteOf_eq_zero ((minlen_le_iff (by decide) le_rfl).mpr (Nat.lt_succ_of_le h)) fun i hi hi4 => ?_
  rw [byteOf_rlenc h hi4, List.getD_eq_default _ _ (hlen.trans_le hi)]

end

theorem le_of_enc_status_eq_zero {v : Word} (h : (rlenc v).enc_status = 0) : v.toNat ≤ Config.rlValueMax :=
  Nat.not_lt.mp fun hlarge => by simp [rlenc_of_gt hlarge] at h

/-! ### A finished call -/

theorem runs_cons_of_keepsCall {s t : State} {c : Cycle} {cs : List Cycle} (hp : s.r_ph = .done) (hc : KeepsCall c)
    (h : Runs s cs t) : Runs s (c :: cs) t := by
  rcases hc with hc | ⟨b, hc⟩ | hc
  · exact runs_cons_of_nop hc h
  · exact runs_cons_of_byte hc (by rwa [consume_of_done hp])
  · exact runs_cons_of_end hc (by rwa [closeCall_of_done hp])

/-! ### The statements -/

/-- Settles O52: the run is the bytes of the call and END, which give the result of Level F. -/
theorem parseCallShowsTheParseResult : Obligations.ParseCallShowsTheParseResult := by
  unfold Obligations.ParseCallShowsTheParseResult
  intro s buf start fin cs hstart hcs hfin
  obtain ⟨-, hdone, hread⟩ := parse_call s buf
  exact ⟨_, runs_cons_of_start hstart (hcs.runs (runs_cons_of_end hfin (runs_nil _))),
    (ports_done_iff _).mpr hdone, hread⟩

/-- Settles O53: the run is the bytes of the call and END, which give the result of Level F. -/
theorem lengthCallShowsTheDecodeResult : Obligations.LengthCallShowsTheDecodeResult := by
  unfold Obligations.LengthCallShowsTheDecodeResult
  intro s buf start fin cs hstart hcs hfin
  have hended := (rldec_call s buf).ended
  exact ⟨_, runs_cons_of_start hstart (hcs.runs (runs_cons_of_end hfin (runs_nil _))),
    (ports_done_iff _).mpr hended.done, readLength_of_endedWith hended⟩

/-- Settles O54: the call has ended unless the bytes so far are truncated, and they are exactly below the deciding
length. -/
theorem parseCallEndsAtTheDecidingByte : Obligations.ParseCallEndsAtTheDecidingByte := by
  unfold Obligations.ParseCallEndsAtTheDecidingByte
  intro s buf k start cs hfull hstart hcs
  obtain ⟨hdone, -, hread⟩ := parse_call s (buf.take k)
  have hdecided : parse (buf.take k) ≠ .error .truncatedInput ↔ decidingLength buf ≤ k :=
    ⟨fun h => Nat.not_lt.mp fun hlt => h (parse_take_of_lt hlt), fun h => (parse_take_of_le hfull h).symm ▸ hfull⟩
  rw [hdecided] at hdone
  rw [← List.append_nil cs]
  refine ⟨_, runs_cons_of_start hstart (hcs.runs (runs_nil _)), (ports_done_iff _).trans hdone, fun hk => ?_⟩
  rw [closeCall_of_done (hdone.mpr hk), parse_take_of_le hfull hk] at hread
  exact hread

/-- Settles O55: the call has ended unless the bytes so far are truncated, and they are exactly below the field's
length. -/
theorem lengthCallEndsAtTheDecidingByte : Obligations.LengthCallEndsAtTheDecidingByte := by
  unfold Obligations.LengthCallEndsAtTheDecidingByte
  intro s buf k start cs hfull hstart hcs
  obtain ⟨hdone, hended, -⟩ := rldec_call s (buf.take k)
  have hdecided : decodeRemainingLength (buf.take k) ≠ .error .truncatedInput ↔ lengthBytesRead 4 buf ≤ k :=
    ⟨fun h => Nat.not_lt.mp fun hlt => h (decodeRemainingLength_take_of_lt hlt),
      fun h => (decodeRemainingLength_take_of_le h hfull).symm ▸ hfull⟩
  rw [hdecided] at hdone
  rw [← List.append_nil cs]
  refine ⟨_, runs_cons_of_start hstart (hcs.runs (runs_nil _)), (ports_done_iff _).trans hdone, fun hk => ?_⟩
  have hread := readLength_of_endedWith hended
  rw [closeCall_of_done (hdone.mpr hk), decodeRemainingLength_take_of_le hk hfull] at hread
  exact hread

/-- Settles O56: `RLENC`'s bytes decode to the record of the value, and the ports of the ended call are that record's.
-/
theorem encoderOutputFedBackGivesTheValue : Obligations.EncoderOutputFedBackGivesTheValue := by
  unfold Obligations.EncoderOutputFedBackGivesTheValue
  intro s v start cs hstatus hstart hcs
  have hv := le_of_enc_status_eq_zero hstatus
  rw [lowBytes_rlenc hv] at hcs
  obtain ⟨hdone, hended, hmode, -⟩ := rldec_call s (encodeDigits Config.rlMaxBytes v)
  rw [decodeRemainingLength_encodeDigits hv] at hdone hended
  have hp := hdone.mpr nofun
  rw [closeCall_of_done hp] at hended
  obtain ⟨-, hok, hrecord⟩ := hended
  have hports := ((regInv_openCall .rldec s).consumeAll _).ports_eq_lengthPorts hp hmode hok
  rw [hrecord] at hports
  have hcount : BitVec.ofNat 3 (minlen v.toNat) = (rlenc v).enc_count := by rw [rlenc_of_le hv]
  rw [← List.append_nil cs]
  refine ⟨_, runs_cons_of_start hstart (hcs.runs (runs_nil _)), ?_⟩
  rw [ports_withPins, hports]
  exact ⟨rfl, rfl, rfl, hcount, packBytes_encodeDigits hv⟩

/-- Settles O27: each of the cycles leaves a finished call as it is, and an opening cycle leaves nothing on the ports.
-/
theorem resultStaysUntilStartOrReset : Obligations.ResultStaysUntilStartOrReset := by
  unfold Obligations.ResultStaysUntilStartOrReset
  intro s hp
  refine ⟨fun cs hcs => ?_, fun t hopen h => ?_⟩
  · induction cs with
    | nil => exact runs_nil s
    | cons c cs ih =>
      exact runs_cons_of_keepsCall hp (hcs c List.mem_cons_self) (ih fun c' hc' => hcs c' (List.mem_cons_of_mem c hc'))
  · obtain ⟨m, hs⟩ := step_of_opensCall hopen
    have hne := openCall_r_ph_ne_done m (advance s)
    rw [step_next_unique h hs]
    exact ⟨hne, ports_of_ne_done hne⟩

end Sys2Proof.Machine
end
